-- ==== Sys2Proof/Word.lean ====
section
/-! DEFINITION. The words of the block: 16-bit data, 32-bit bus-master words, 64-bit command words, 5-bit register
addresses (00_scope.md R7, R10; 20_memory.md R50, R53; 30_encoding.md R80). Bit 0 is the least significant. -/

namespace Sys2Proof

/-- A 16-bit datum: an SMI cell, an operand register, a field value. -/
abbrev Half := BitVec 16

/-- A 32-bit word: CTRL, DATA, a response. -/
abbrev Word := BitVec 32

/-- A 64-bit command word. -/
abbrev Command := BitVec 64

/-- A 5-bit SMI register address. -/
abbrev RegNum := BitVec 5

end Sys2Proof
end

