-- ==== Sys2Proof/Config.lean ====
section
/-! DEFINITION. The parameters of 00_scope.md R7, one field each, their constraints, and the free values.
A configuration is plain data, held in State and never written, so a statement about every state holds of every
configuration. CFG0 stands in Sys2Proof/Machine/Cfg0.lean. -/

namespace Sys2Proof

/-- An access kind of the Address Mapper (43_address_mapper.md R165, R166). -/
inductive AccessKind where
  | phy | port | global | global2 | global3 | raw | unknown
deriving DecidableEq, Repr

/-- The ten port-configuration commands, as `pcfgLegal` and the descriptors name them (46_port_config.md R237, R250). -/
inductive PortOp where
  | portState | portFrameMode | portVlanMembers | portHeaderMode
  | pcsForceSpeed | pcsForceDuplex | pcsForceFc | pcsForceLink | portJumbo | phyPower
deriving DecidableEq, Repr

/-- The bus-master control register and the two poll bounds (41_bus_transport.md R131 to R137). -/
structure BusCfg where
  /-- DEV_SHIFT -/
  devShift : Nat
  /-- DEV_MASK, the legal mask of the shifted device address -/
  devMask : Nat
  /-- REG_SHIFT -/
  regShift : Nat
  /-- OPC_READ -/
  opcRead : Word
  /-- OPC_WRITE -/
  opcWrite : Word
  /-- RVALID_BIT -/
  rvalidBit : Nat
  /-- BUSY_BIT -/
  busyBit : Nat
  /-- BUSY_POLL_MAX -/
  busyPollMax : Nat
  /-- RVALID_POLL_MAX -/
  rvalidPollMax : Nat
  /-- SETTLE_DELAY: timing only, no rule of an untimed model reads it (R137, R315) -/
  settleDelay : Nat
deriving DecidableEq, Repr

/-- The Address Mapper's constants (43_address_mapper.md R165 to R167). Addresses are naturals: a configured
address of 32 or more reaches the Bus Transport's check (60_exceptions.md R268). -/
structure MapCfg where
  /-- PORT_BASE -/
  portBase : Nat
  /-- GLOBAL_ADDR -/
  globalAddr : Nat
  /-- GLOBAL2_ADDR -/
  global2Addr : Nat
  /-- GLOBAL3_ADDR -/
  global3Addr : Nat
  /-- FALLBACK_ADDR -/
  fallbackAddr : Nat
  /-- KIND_CODE_GLOBAL3 -/
  kindCodeGlobal3 : Option (BitVec 3)
deriving DecidableEq, Repr

/-- One bit of an operand register: register number and bit number. -/
structure OperandBit where
  reg : BitVec 4
  bit : BitVec 4
deriving DecidableEq, Repr

/-- One monomial of ATU_OP_EXTRA: it flips bit `out` when all of `ins` are 1 (log 11). -/
structure ExtraTerm where
  out : BitVec 4
  ins : List OperandBit
deriving DecidableEq, Repr

/-- The ATU's registers, opcodes and data-word layout (44_atu_engine.md R187 to R201). -/
structure AtuCfg where
  /-- ATU_OPERATION -/
  operation : RegNum
  /-- ATU_DATA -/
  data : RegNum
  /-- ATU_MAC_BASE -/
  macBase : RegNum
  /-- ATU_FID -/
  fid : RegNum
  /-- ATUOP_FLUSH_ALL -/
  opFlushAll : BitVec 3
  /-- ATUOP_FLUSH_UNLOCKED -/
  opFlushUnlocked : BitVec 3
  /-- ATUOP_LOAD_PURGE_ENTRY -/
  opLoadPurge : BitVec 3
  /-- ATUOP_GET_NEXT_ENTRY -/
  opGetNext : BitVec 3
  /-- ATUOP_FLUSH_ALL_IN_DB -/
  opFlushAllDb : BitVec 3
  /-- ATUOP_FLUSH_UNLOCKED_IN_DB -/
  opFlushUnlockedDb : BitVec 3
  /-- ATUOP_SERVICE_VIOLATIONS -/
  opServiceViolations : BitVec 3
  /-- ATU_STATE_LSB -/
  stateLsb : Nat
  /-- ATU_PV_LSB -/
  pvLsb : Nat
  /-- ATU_PRIO_LSB -/
  prioLsb : Nat
  /-- ATU_TRUNK_BIT -/
  trunkBit : Option Nat
  /-- ATU_OP_EXTRA, a function of the operand registers: the sum modulo 2 of its monomials (log 11) -/
  opExtra : List ExtraTerm
  /-- VIOL_NIBBLE_LSB -/
  violNibbleLsb : Nat
  /-- VIOL_NONE_SKIPS_READBACK -/
  violNoneSkipsReadback : Bool
deriving DecidableEq, Repr

/-- The PVT's registers and opcodes (45_pvt_engine.md R220 to R223). -/
structure PvtCfg where
  /-- PVT_ADDR, the operation register -/
  addr : RegNum
  /-- PVT_DATA -/
  data : RegNum
  /-- PVTOP_WRITE -/
  opWrite : BitVec 3
  /-- PVTOP_READ -/
  opRead : BitVec 3
  /-- PVT_ADDR_MASK -/
  addrMask : Half
deriving DecidableEq, Repr

/-- A register as a descriptor names it: one of the named registers of 46_port_config.md R237, or a number. -/
inductive NamedReg where
  | portControl | portControl2 | pcsControl | pvid | phyControl | phySpecControl | phyPageReg
  | number (r : RegNum)
deriving DecidableEq, Repr

/-- A port-configuration descriptor (46_port_config.md R237). `legal` lists the legal arguments as ranges,
both ends included. -/
structure FieldDesc where
  kind : AccessKind
  reg : NamedReg
  off : BitVec 4
  len : BitVec 5
  legal : List (Half × Half)
deriving DecidableEq, Repr

/-- The port registers, the nine descriptors, the jumbo codes, and the models an operation is illegal on
(46_port_config.md R237, R246, R250). -/
structure PortCfg where
  /-- PORT_CONTROL -/
  portControl : RegNum
  /-- PORT_CONTROL2 -/
  portControl2 : RegNum
  /-- PCS_CONTROL -/
  pcsControl : RegNum
  /-- PVID: named by the source, used by no command (R237) -/
  pvid : RegNum
  descState : FieldDesc
  descFrameMode : FieldDesc
  descVlanMembers : FieldDesc
  descHeaderMode : FieldDesc
  descForceSpeed : FieldDesc
  descForceDuplex : FieldDesc
  descForceFc : FieldDesc
  descForceLink : FieldDesc
  descJumbo : FieldDesc
  /-- JUMBO_A -/
  jumboA : BitVec 2
  /-- JUMBO_B -/
  jumboB : BitVec 2
  /-- JUMBO_C -/
  jumboC : BitVec 2
  /-- the pairs (identifier, operation) on which pcfgLegal is false (log 11) -/
  illegal : List (Half × PortOp)
deriving DecidableEq, Repr

/-- One row of POWER_BITS (46_port_config.md R249). -/
structure PowerBit where
  reg : NamedReg
  off : BitVec 4
  len : BitVec 5
  down : Half
  up : Half
deriving DecidableEq, Repr

/-- The PHY registers and the power sequence's parameters (46_port_config.md R249). -/
structure PhyCfg where
  /-- PHY_CONTROL -/
  control : RegNum
  /-- PHY_SPEC_CONTROL -/
  specControl : RegNum
  /-- PHY_PAGE_REG -/
  pageReg : RegNum
  /-- POWER_PAGE -/
  powerPage : Half
  /-- PAGE_DEFAULT -/
  pageDefault : Half
  /-- POWER_BITS -/
  powerBits : List PowerBit
deriving DecidableEq, Repr

/-- Every parameter of 00_scope.md R7. -/
structure Config where
  bus : BusCfg
  map : MapCfg
  atu : AtuCfg
  pvt : PvtCfg
  port : PortCfg
  phy : PhyCfg
  /-- POST_WAIT_ALL -/
  postWaitAll : Bool
  /-- TABLE_WAIT_BOUND -/
  tableWaitBound : Option Nat
  /-- SUPPORTED_IDS -/
  supportedIds : List Half
deriving DecidableEq, Repr

/-- The constraints R7 puts on the control word: the fields lie in 32 bits, clear of the data bits and of each other. -/
structure BusCfg.WF (c : BusCfg) : Prop where
  devMask_eq : c.devMask = 31 * 2 ^ c.devShift
  dev_low : 16 ≤ c.devShift
  dev_high : c.devShift + 5 ≤ 32
  reg_low : 16 ≤ c.regShift
  reg_high : c.regShift + 5 ≤ 32
  dev_reg : c.devShift + 5 ≤ c.regShift ∨ c.regShift + 5 ≤ c.devShift
  rvalid_low : 16 ≤ c.rvalidBit
  rvalid_high : c.rvalidBit < 32
  busy_low : 16 ≤ c.busyBit
  busy_high : c.busyBit < 32
  busy_rvalid : c.busyBit ≠ c.rvalidBit
  rvalid_dev : c.rvalidBit < c.devShift ∨ c.devShift + 5 ≤ c.rvalidBit
  rvalid_reg : c.rvalidBit < c.regShift ∨ c.regShift + 5 ≤ c.rvalidBit
  busy_dev : c.busyBit < c.devShift ∨ c.devShift + 5 ≤ c.busyBit
  busy_reg : c.busyBit < c.regShift ∨ c.regShift + 5 ≤ c.busyBit
  opc_ne : c.opcRead ≠ c.opcWrite
  opc_data : ∀ i < 16, (c.opcRead ||| c.opcWrite).getLsbD i = false
  opc_dev : ∀ i < 5, (c.opcRead ||| c.opcWrite).getLsbD (c.devShift + i) = false
  opc_reg : ∀ i < 5, (c.opcRead ||| c.opcWrite).getLsbD (c.regShift + i) = false
  opc_busy : (c.opcRead ||| c.opcWrite).getLsbD c.busyBit = false
  opc_rvalid : (c.opcRead ||| c.opcWrite).getLsbD c.rvalidBit = false
  busyPoll_pos : 1 ≤ c.busyPollMax
  rvalidPoll_larger : c.busyPollMax < c.rvalidPollMax

/-- R7's constraints on the Address Mapper's constants. -/
structure MapCfg.WF (c : MapCfg) : Prop where
  port_fits : c.portBase + 6 ≤ 31
  global_fits : c.globalAddr ≤ 31
  global2_fits : c.global2Addr ≤ 31
  global3_fits : c.global3Addr ≤ 31
  code_free : ∀ k, c.kindCodeGlobal3 = some k → k = 0 ∨ k = 6 ∨ k = 7

/-- R7's constraints on the ATU parameters; the port vector's width depends on the context, so its clearance
of the other fields is a premise of the claims that need it (93_implementation_defined.md U11). -/
structure AtuCfg.WF (c : AtuCfg) : Prop where
  mac_fits : c.macBase.toNat + 2 ≤ 31
  ops_distinct : [c.opFlushAll, c.opFlushUnlocked, c.opLoadPurge, c.opGetNext, c.opFlushAllDb,
    c.opFlushUnlockedDb, c.opServiceViolations].Nodup
  ops_nonzero : (0 : BitVec 3) ∉ [c.opFlushAll, c.opFlushUnlocked, c.opLoadPurge, c.opGetNext, c.opFlushAllDb,
    c.opFlushUnlockedDb, c.opServiceViolations]
  state_fits : c.stateLsb + 4 ≤ 16
  prio_fits : c.prioLsb + 2 ≤ 16
  pv_fits : c.pvLsb < 16
  state_prio : c.stateLsb + 4 ≤ c.prioLsb ∨ c.prioLsb + 2 ≤ c.stateLsb
  trunk_fits : ∀ t, c.trunkBit = some t → t < 16 ∧ (t < c.stateLsb ∨ c.stateLsb + 4 ≤ t) ∧
    (t < c.prioLsb ∨ c.prioLsb + 2 ≤ t)
  viol_fits : c.violNibbleLsb ≤ 11

/-- R7's constraints on the PVT parameters. -/
structure PvtCfg.WF (c : PvtCfg) : Prop where
  ops_distinct : c.opWrite ≠ c.opRead
  write_nonzero : c.opWrite ≠ 0
  read_nonzero : c.opRead ≠ 0
  mask_fits : c.addrMask &&& 0xF000 = 0

/-- R7's constraints on the port and PHY parameters. -/
structure PortCfg.WF (c : PortCfg) : Prop where
  jumbo_distinct : [c.jumboA, c.jumboB, c.jumboC].Nodup

/-- The constraints of 00_scope.md R7. -/
structure Config.WF (c : Config) : Prop where
  bus : c.bus.WF
  map : c.map.WF
  atu : c.atu.WF
  pvt : c.pvt.WF
  port : c.port.WF
  power_fits : ∀ b ∈ c.phy.powerBits, b.off.toNat + b.len.toNat ≤ 16
  bound_pos : ∀ b, c.tableWaitBound = some b → 1 ≤ b

/-- FREE VALUE (log 3). The n-th answer the environment gives beyond what State scripts: 20_memory.md R52
lets it be any word. -/
opaque Config.envAnswer : Nat → Word

/-- FREE VALUE (log 4). What reset number n leaves in operand register i: 10_state.md R34 leaves it unspecified,
93_implementation_defined.md U1 forbids assuming zero. -/
opaque Config.resetOperand : Nat → Nat → Half

/-- FREE VALUE (log 5). What reset number n leaves in field i of the Device Context (10_state.md R34). -/
opaque Config.resetContext : Nat → Nat → Half

end Sys2Proof
end

