-- ==== Sys2Proof/Syntax.lean ====
section
/-! DEFINITION. The commands, one constructor per row of spec/opcode_table.json (30_encoding.md R82, R83, R95).
Operand order is that of the assembler syntax of R95. -/

namespace Sys2Proof

/-- A command. `dev` and `port` are the field A, `reg` is R, `kind` is the access-kind code K, `off` and `len` are
OFF and LEN, and the last operand is V (30_encoding.md R81). -/
inductive Instr where
  /-- R110 -/
  | lde (i : BitVec 4) (imm : Half)
  /-- R111 -/
  | rde (i : BitVec 4)
  /-- R112 -/
  | ctxInit
  /-- R113 -/
  | ctxRd (n : BitVec 4)
  /-- R140 -/
  | smiRd (dev : BitVec 8) (reg : RegNum)
  /-- R141 -/
  | smiWr (dev : BitVec 8) (reg : RegNum) (val : Half)
  /-- R154 -/
  | smiFldWr (dev : BitVec 8) (reg : RegNum) (off : BitVec 4) (len : BitVec 5) (val : Half)
  /-- R170 -/
  | regRd (port : BitVec 8) (reg : RegNum) (kind : BitVec 3)
  /-- R171 -/
  | regWr (port : BitVec 8) (reg : RegNum) (kind : BitVec 3) (val : Half)
  /-- R172 -/
  | regFldWr (port : BitVec 8) (reg : RegNum) (kind : BitVec 3) (off : BitVec 4) (len : BitVec 5) (val : Half)
  /-- R194 -/
  | atuFlushAll
  /-- R195 -/
  | atuFlushUnlocked
  /-- R196 -/
  | atuLoadPurge
  /-- R197 -/
  | atuGetNext
  /-- R198 -/
  | atuFlushAllDb
  /-- R199 -/
  | atuFlushUnlockedDb
  /-- R200 -/
  | atuSvcViol
  /-- R221 -/
  | pvtWrite
  /-- R222 -/
  | pvtRead
  /-- R238 -/
  | portState (port : BitVec 8) (v : Half)
  /-- R239 -/
  | portFrameMode (port : BitVec 8) (v : Half)
  /-- R240 -/
  | portVlanMembers (port : BitVec 8) (v : Half)
  /-- R241 -/
  | portHeaderMode (port : BitVec 8) (v : Half)
  /-- R242 -/
  | pcsForceSpeed (port : BitVec 8) (v : Half)
  /-- R243 -/
  | pcsForceDuplex (port : BitVec 8) (v : Half)
  /-- R244 -/
  | pcsForceFc (port : BitVec 8) (v : Half)
  /-- R245 -/
  | pcsForceLink (port : BitVec 8) (v : Half)
  /-- R247 -/
  | portJumbo (port : BitVec 8) (size : Half)
  /-- R249 -/
  | phyPower (port : BitVec 8) (v : Half)
deriving DecidableEq, Repr

end Sys2Proof
end

