-- ==== Sys2Proof/WellFormed.lean ====
section
/-! DEFINITION. Which commands the encoding can carry (30_encoding.md R88). The operand types hold every bound but one:
CTX_RD's index is at most 6. -/

namespace Sys2Proof

/-- A command the encoding admits: the one check is R88's `IDX ≤ 6` for CTX_RD. -/
def Instr.wf : Instr → Bool
  | .ctxRd n => decide (n.toNat ≤ 6)
  | .lde _ _ => true
  | .rde _ => true
  | .ctxInit => true
  | .smiRd _ _ => true
  | .smiWr _ _ _ => true
  | .smiFldWr _ _ _ _ _ => true
  | .regRd _ _ _ => true
  | .regWr _ _ _ _ => true
  | .regFldWr _ _ _ _ _ _ => true
  | .atuFlushAll => true
  | .atuFlushUnlocked => true
  | .atuLoadPurge => true
  | .atuGetNext => true
  | .atuFlushAllDb => true
  | .atuFlushUnlockedDb => true
  | .atuSvcViol => true
  | .pvtWrite => true
  | .pvtRead => true
  | .portState _ _ => true
  | .portFrameMode _ _ => true
  | .portVlanMembers _ _ => true
  | .portHeaderMode _ _ => true
  | .pcsForceSpeed _ _ => true
  | .pcsForceDuplex _ _ => true
  | .pcsForceFc _ _ => true
  | .pcsForceLink _ _ => true
  | .portJumbo _ _ => true
  | .phyPower _ _ => true

end Sys2Proof
end

