-- ==== Sys2Proof/Decode.lean ====
section
/-! DEFINITION. The decoder, total on command words and rejecting by name, and the encoder (30_encoding.md R80 to R90). -/

namespace Sys2Proof

/-! ## Fields of the command word (R81) -/

/-- OP, bits 63:56 -/
def fieldOp (w : Command) : BitVec 8 := w.extractLsb' 56 8
/-- A, bits 55:48 -/
def fieldA (w : Command) : BitVec 8 := w.extractLsb' 48 8
/-- K, bits 47:45 -/
def fieldK (w : Command) : BitVec 3 := w.extractLsb' 45 3
/-- R, bits 44:40 -/
def fieldR (w : Command) : RegNum := w.extractLsb' 40 5
/-- LEN, bits 36:32 -/
def fieldLen (w : Command) : BitVec 5 := w.extractLsb' 32 5
/-- OFF, bits 27:24 -/
def fieldOff (w : Command) : BitVec 4 := w.extractLsb' 24 4
/-- IDX, bits 19:16 -/
def fieldIdx (w : Command) : BitVec 4 := w.extractLsb' 16 4
/-- V, bits 15:0 -/
def fieldV (w : Command) : Half := w.extractLsb' 0 16

/-! ## Formats (R82) -/

/-- Which operand fields a format uses. -/
structure CmdFormat where
  a : Bool
  k : Bool
  r : Bool
  len : Bool
  off : Bool
  idx : Bool
  v : Bool
deriving DecidableEq, Repr

/-- Format N: OP alone. -/
def fmtN : CmdFormat := ⟨false, false, false, false, false, false, false⟩
/-- Format E with V used (LDE). -/
def fmtE : CmdFormat := ⟨false, false, false, false, false, true, true⟩
/-- Format E with V zero (RDE, CTX_RD). -/
def fmtE0 : CmdFormat := ⟨false, false, false, false, false, true, false⟩
/-- Format D with V used (SMI_WR). -/
def fmtD : CmdFormat := ⟨true, false, true, false, false, false, true⟩
/-- Format D with V zero (SMI_RD). -/
def fmtD0 : CmdFormat := ⟨true, false, true, false, false, false, false⟩
/-- Format DF. -/
def fmtDF : CmdFormat := ⟨true, false, true, true, true, false, true⟩
/-- Format M with V used (REG_WR). -/
def fmtM : CmdFormat := ⟨true, true, true, false, false, false, true⟩
/-- Format M with V zero (REG_RD). -/
def fmtM0 : CmdFormat := ⟨true, true, true, false, false, false, false⟩
/-- Format MF. -/
def fmtMF : CmdFormat := ⟨true, true, true, true, true, false, true⟩
/-- Format P. -/
def fmtP : CmdFormat := ⟨true, false, false, false, false, false, true⟩

/-- Z1, Z2 and Z3: bits 39:37, 31:28 and 23:20 (R81). -/
def reservedMask : Command := 0x000000E0F0F00000

/-- The bits of the fields a format does not use (R82). -/
def unusedMask (f : CmdFormat) : Command :=
  (if f.a then 0 else 0x00FF000000000000) ||| (if f.k then 0 else 0x0000E00000000000) |||
  (if f.r then 0 else 0x00001F0000000000) ||| (if f.len then 0 else 0x0000001F00000000) |||
  (if f.off then 0 else 0x000000000F000000) ||| (if f.idx then 0 else 0x00000000000F0000) |||
  (if f.v then 0 else 0x000000000000FFFF)

/-! ## The decoder -/

/-- Why a command word is illegal (R88). Every cause is answered with BadParameter. -/
inductive DecodeError where
  /-- OP is not in R83's table -/
  | unknownOpcode (op : BitVec 8)
  /-- Z1, Z2 or Z3 is nonzero -/
  | reservedField
  /-- a field the format does not use is nonzero -/
  | unusedField
  /-- CTX_RD names a field above 6 -/
  | contextIndex (n : BitVec 4)
deriving DecidableEq, Repr

/-- `i`, if the reserved fields of `w` and those `f` does not use are zero (R82, R88). -/
def checkedAs (w : Command) (f : CmdFormat) (i : Instr) : Except DecodeError Instr :=
  if w &&& reservedMask ≠ 0 then .error .reservedField
  else if w &&& unusedMask f ≠ 0 then .error .unusedField
  else .ok i

/-- The command a word stands for, by the opcode map of R83, or why it is illegal (R88). -/
def decode (w : Command) : Except DecodeError Instr :=
  match (fieldOp w).toNat with
  | 0x01 => checkedAs w fmtE (.lde (fieldIdx w) (fieldV w))
  | 0x02 => checkedAs w fmtE0 (.rde (fieldIdx w))
  | 0x03 => checkedAs w fmtN .ctxInit
  | 0x04 =>
    if (fieldIdx w).toNat ≤ 6 then checkedAs w fmtE0 (.ctxRd (fieldIdx w))
    else .error (.contextIndex (fieldIdx w))
  | 0x10 => checkedAs w fmtD0 (.smiRd (fieldA w) (fieldR w))
  | 0x11 => checkedAs w fmtD (.smiWr (fieldA w) (fieldR w) (fieldV w))
  | 0x12 => checkedAs w fmtDF (.smiFldWr (fieldA w) (fieldR w) (fieldOff w) (fieldLen w) (fieldV w))
  | 0x20 => checkedAs w fmtM0 (.regRd (fieldA w) (fieldR w) (fieldK w))
  | 0x21 => checkedAs w fmtM (.regWr (fieldA w) (fieldR w) (fieldK w) (fieldV w))
  | 0x22 => checkedAs w fmtMF (.regFldWr (fieldA w) (fieldR w) (fieldK w) (fieldOff w) (fieldLen w) (fieldV w))
  | 0x31 => checkedAs w fmtN .atuFlushAll
  | 0x32 => checkedAs w fmtN .atuFlushUnlocked
  | 0x33 => checkedAs w fmtN .atuLoadPurge
  | 0x34 => checkedAs w fmtN .atuGetNext
  | 0x35 => checkedAs w fmtN .atuFlushAllDb
  | 0x36 => checkedAs w fmtN .atuFlushUnlockedDb
  | 0x37 => checkedAs w fmtN .atuSvcViol
  | 0x43 => checkedAs w fmtN .pvtWrite
  | 0x44 => checkedAs w fmtN .pvtRead
  | 0x50 => checkedAs w fmtP (.portState (fieldA w) (fieldV w))
  | 0x51 => checkedAs w fmtP (.portFrameMode (fieldA w) (fieldV w))
  | 0x52 => checkedAs w fmtP (.portVlanMembers (fieldA w) (fieldV w))
  | 0x53 => checkedAs w fmtP (.portHeaderMode (fieldA w) (fieldV w))
  | 0x54 => checkedAs w fmtP (.pcsForceSpeed (fieldA w) (fieldV w))
  | 0x55 => checkedAs w fmtP (.pcsForceDuplex (fieldA w) (fieldV w))
  | 0x56 => checkedAs w fmtP (.pcsForceFc (fieldA w) (fieldV w))
  | 0x57 => checkedAs w fmtP (.pcsForceLink (fieldA w) (fieldV w))
  | 0x58 => checkedAs w fmtP (.portJumbo (fieldA w) (fieldV w))
  | 0x59 => checkedAs w fmtP (.phyPower (fieldA w) (fieldV w))
  | _ => .error (.unknownOpcode (fieldOp w))

/-- The command in a table row's bits, numbered as spec/opcode_table.json numbers them; bits from `nbits` up are 0. -/
def decodeTableWord (nbits w : Nat) : Option Instr :=
  match decode (BitVec.ofNat 64 (w % 2 ^ nbits)) with
  | .ok i => some i
  | .error _ => none

/-! ## The encoder -/

/-- A command word from its fields, the reserved ones zero (R81). -/
def packCommand (op a : BitVec 8) (k : BitVec 3) (r len : BitVec 5) (off idx : BitVec 4) (v : Half) : Command :=
  op ++ a ++ k ++ r ++ 0#3 ++ len ++ 0#4 ++ off ++ 0#4 ++ idx ++ v

/-- The word of a command (R82, R83). -/
def encode : Instr → Command
  | .lde i imm => packCommand 0x01 0 0 0 0 0 i imm
  | .rde i => packCommand 0x02 0 0 0 0 0 i 0
  | .ctxInit => packCommand 0x03 0 0 0 0 0 0 0
  | .ctxRd n => packCommand 0x04 0 0 0 0 0 n 0
  | .smiRd dev reg => packCommand 0x10 dev 0 reg 0 0 0 0
  | .smiWr dev reg val => packCommand 0x11 dev 0 reg 0 0 0 val
  | .smiFldWr dev reg off len val => packCommand 0x12 dev 0 reg len off 0 val
  | .regRd port reg kind => packCommand 0x20 port kind reg 0 0 0 0
  | .regWr port reg kind val => packCommand 0x21 port kind reg 0 0 0 val
  | .regFldWr port reg kind off len val => packCommand 0x22 port kind reg len off 0 val
  | .atuFlushAll => packCommand 0x31 0 0 0 0 0 0 0
  | .atuFlushUnlocked => packCommand 0x32 0 0 0 0 0 0 0
  | .atuLoadPurge => packCommand 0x33 0 0 0 0 0 0 0
  | .atuGetNext => packCommand 0x34 0 0 0 0 0 0 0
  | .atuFlushAllDb => packCommand 0x35 0 0 0 0 0 0 0
  | .atuFlushUnlockedDb => packCommand 0x36 0 0 0 0 0 0 0
  | .atuSvcViol => packCommand 0x37 0 0 0 0 0 0 0
  | .pvtWrite => packCommand 0x43 0 0 0 0 0 0 0
  | .pvtRead => packCommand 0x44 0 0 0 0 0 0 0
  | .portState port v => packCommand 0x50 port 0 0 0 0 0 v
  | .portFrameMode port v => packCommand 0x51 port 0 0 0 0 0 v
  | .portVlanMembers port v => packCommand 0x52 port 0 0 0 0 0 v
  | .portHeaderMode port v => packCommand 0x53 port 0 0 0 0 0 v
  | .pcsForceSpeed port v => packCommand 0x54 port 0 0 0 0 0 v
  | .pcsForceDuplex port v => packCommand 0x55 port 0 0 0 0 0 v
  | .pcsForceFc port v => packCommand 0x56 port 0 0 0 0 0 v
  | .pcsForceLink port v => packCommand 0x57 port 0 0 0 0 0 v
  | .portJumbo port size => packCommand 0x58 port 0 0 0 0 0 size
  | .phyPower port v => packCommand 0x59 port 0 0 0 0 0 v

end Sys2Proof
end

