-- ==== Sys2Proof/Machine/Cfg0.lean ====
section
/-! DEFINITION. CFG0, the reference configuration (00_scope.md R7; the descriptors are 46_port_config.md R237). -/

namespace Sys2Proof.Machine

/-- A descriptor of the per-port block whose legal set is `0 .. 2^len - 1`, the rule of R237 where the source
gives none. -/
def portField (reg : NamedReg) (off : BitVec 4) (len : BitVec 5) : FieldDesc :=
  { kind := .port, reg := reg, off := off, len := len, legal := [(0, BitVec.ofNat 16 (2 ^ len.toNat - 1))] }

/-- R7, R135: the layout of the bus master's control register. -/
def bus0 : BusCfg :=
  { devShift := 16, devMask := 0x001F0000, regShift := 21, opcRead := 0x04000000, opcWrite := 0x00000000,
    rvalidBit := 27, busyBit := 28, busyPollMax := 8, rvalidPollMax := 64, settleDelay := 0 }

/-- R7, R165: the Address Mapper's constants; GLOBAL3 has no code (90_conflicts.md C1). -/
def map0 : MapCfg :=
  { portBase := 0x10, globalAddr := 0x1B, global2Addr := 0x1C, global3Addr := 0x1D, fallbackAddr := 0x1F,
    kindCodeGlobal3 := none }

/-- R7: the ATU. -/
def atu0 : AtuCfg :=
  { operation := 0x0B, data := 0x0C, macBase := 0x0D, fid := 0x01,
    opFlushAll := 1, opFlushUnlocked := 2, opLoadPurge := 3, opGetNext := 4, opFlushAllDb := 5,
    opFlushUnlockedDb := 6, opServiceViolations := 7,
    stateLsb := 0, pvLsb := 4, prioLsb := 14, trunkBit := none, opExtra := [],
    violNibbleLsb := 4, violNoneSkipsReadback := false }

/-- R7: the PVT. -/
def pvt0 : PvtCfg := { addr := 0x0B, data := 0x0C, opWrite := 3, opRead := 4, addrMask := 0x0FFF }

/-- R7, R237: the port registers and descriptors. The VLAN-membership register 0x06 has no name in the source. -/
def port0 : PortCfg :=
  { portControl := 0x04, portControl2 := 0x08, pcsControl := 0x01, pvid := 0x07,
    descState := portField .portControl 0 2,
    descFrameMode := portField .portControl 8 2,
    descVlanMembers := portField (.number 0x06) 0 7,
    descHeaderMode := portField .portControl 11 1,
    descForceSpeed := portField .pcsControl 0 2,
    descForceDuplex := portField .pcsControl 2 2,
    descForceFc := portField .pcsControl 6 2,
    descForceLink := portField .pcsControl 4 2,
    descJumbo := { portField .portControl2 12 2 with legal := [(0, 0xFFFF)] },
    jumboA := 0, jumboB := 1, jumboC := 2, illegal := [] }

/-- R7, R249: the PHY registers and the power sequence. -/
def phy0 : PhyCfg :=
  { control := 0x00, specControl := 0x10, pageReg := 0x16, powerPage := 0, pageDefault := 0,
    powerBits := [⟨.phyControl, 11, 1, 1, 0⟩, ⟨.phySpecControl, 2, 1, 1, 0⟩] }

/-- CFG0 (R7): no post-wait but for read-style opcodes, no bound on the table wait, one supported identifier. -/
def cfg0 : Config :=
  { bus := bus0, map := map0, atu := atu0, pvt := pvt0, port := port0, phy := phy0,
    postWaitAll := false, tableWaitBound := none, supportedIds := [0x0001] }

end Sys2Proof.Machine
end

