-- ==== Sys2Proof/Machine/State.lean ====
section
/-! DEFINITION. The machine's state as plain data (10_state.md R20 to R34; 20_memory.md R51, R70, R71), the ways a step
could stop, and the state after reset. -/

namespace Sys2Proof.Machine

/-- The status of a response (00_scope.md R12, 60_exceptions.md R265). -/
inductive Status where
  | ok | fail | invalidAddress | timeout | badParameter | notSupported
deriving DecidableEq, Repr

/-- The Device Context (10_state.md R27). -/
structure Context where
  valid : Bool
  deviceId : Half
  portCount : Half
  maxPorts : Half
  cpuPort : Half
  validPortMask : Half
  validPhyMask : Half
deriving DecidableEq, Repr

/-- The nine table commands: the commands that can be in progress when a step ends (44_atu_engine.md R186). -/
inductive TableCmd where
  | atuFlushAll | atuFlushUnlocked | atuLoadPurge | atuGetNext | atuFlushAllDb | atuFlushUnlockedDb | atuSvcViol
  | pvtWrite | pvtRead
deriving DecidableEq, Repr

/-- Which Busy-Wait a table command is in: E_PREWAIT or E_POSTWAIT (10_state.md R25). -/
inductive WaitPhase where
  | pre | post
deriving DecidableEq, Repr

/-! ## The sequencer (10_state.md R24, R25, R31) -/

/-- A Bus Transport operation: `SmiRead(dev, reg)` or `SmiWrite(dev, reg, v)` (41_bus_transport.md R133, R134). -/
inductive BusOp where
  | read (dev : Nat) (reg : RegNum)
  | write (dev : Nat) (reg : RegNum) (v : Half)
deriving DecidableEq, Repr

/-- The transport phases that make an access, with the reads a countdown has left: T_BUSY(n), T_ISSUE, T_RVALID(m),
T_DATA (10_state.md R25). T_CHECK makes none and is over when a Bus Transaction opens. -/
inductive TransportPhase where
  | busy (left : Nat)
  | issue
  | rvalid (left : Nat)
  | data
deriving DecidableEq, Repr

/-- A Bus Transaction in flight: its operation and its phase. -/
structure Transaction where
  op : BusOp
  phase : TransportPhase
deriving DecidableEq, Repr

/-- What a table command does with a result register it has read (44_atu_engine.md R190, R191, R200; 45_pvt_engine.md
R222): all of it into E[i], a database number into E[3], an entry state into E[5], an entry unpacked, a violation's
kind into E[11]. -/
inductive ResultUse where
  | store (i : BitVec 4)
  | storeDatabase
  | storeState
  | unpackEntry
  | storeKind
deriving DecidableEq, Repr

/-- A piece of a command's pseudocode that is still to run (10_state.md R25: the phase kept as a continuation). The first
four make one Bus Transport operation each (C_READ, C_WRITE, E_DATA, E_COMMIT, E_RESULT and the polls of E_PREWAIT and
E_POSTWAIT); `use`, `test` and `enterPage` say what the operation before them leads to; the last four answer. -/
inductive Task where
  /-- `SmiRead(dev, reg)` -/
  | read (dev : Nat) (reg : RegNum)
  /-- `SmiWrite(dev, reg, v)` -/
  | write (dev : Nat) (reg : RegNum) (v : Half)
  /-- the write half of a field write: the value last read with the field merged in (42_field_codec.md R151) -/
  | merge (dev : Nat) (reg : RegNum) (off : BitVec 4) (len : BitVec 5) (val : Half)
  /-- the page restore of PHY_POWER, made after a failure too (46_port_config.md R249) -/
  | restorePage (dev : Nat)
  /-- a result of a table command -/
  | use (u : ResultUse)
  /-- a poll of a Busy-Wait, `polls` polls having shown busy (44_atu_engine.md R186) -/
  | test (cmd : TableCmd) (phase : WaitPhase) (polls : Nat)
  /-- PHY_POWER's page is entered: its bits and its restore follow -/
  | enterPage (dev : Nat) (v : Half)
  /-- a command that makes no access, whole -/
  | run (i : Instr)
  /-- `respond(status, v)` -/
  | answer (v : Half)
  /-- `respond(status, `the value last read`)` -/
  | answerLast
  /-- `respond(status, E[i])`: the register holds the value just stored -/
  | answerE (i : BitVec 4)
deriving DecidableEq, Repr

/-- A command between two of its accesses, or between its last access and its response (00_scope.md R9; 10_state.md
R31): its first failing status so far, the value last read, the Bus Transaction in flight, and what is still to run. -/
structure Work where
  status : Status
  last : Half
  trans : Option Transaction
  todo : List Task
deriving DecidableEq, Repr

/-- The sequencer (10_state.md R24, R25, R31): IDLE, or a latched table command before a poll of one of its waits, `polls`
reads of the operation register having shown busy, or a command between two of its accesses (log 1). -/
inductive Sequencer where
  | idle
  | waiting (cmd : TableCmd) (phase : WaitPhase) (polls : Nat)
  | running (w : Work)
deriving DecidableEq, Repr

/-- One access on the bus side (20_memory.md R51): a read of CTRL and what it returned, a write of CTRL, a read of
DATA and what it returned. There is no write of DATA. -/
inductive BusEvent where
  | readCtrl (c : Word)
  | writeCtrl (w : Word)
  | readData (d : Word)
deriving DecidableEq, Repr

/-- Cells of 16 bits by number, rising, none of them zero: an unlisted cell reads 0x0000 (20_memory.md R53, R70). -/
abbrev Memory := List (Nat × Half)

/-- The reference environment ENV0 or ENV0(d) (20_memory.md R70): the cells SW, the read latch RL, `delay` none for ENV0
and d for ENV0(d), and how many more reads of each table's operation register show busy, none before the first
operation word. -/
structure Env0 where
  sw : Memory
  rl : Half
  delay : Option Nat
  atuBusy : Option Nat
  pvtBusy : Option Nat
deriving DecidableEq, Repr

/-- The environment (20_memory.md R52, R70, R71). A script answers reads of CTRL and of DATA from its two lists, and
beyond their ends the answers are free values; so every environment is a script, as far as any run has gone. -/
inductive Environment where
  | script (ctrl data : List Word)
  | env0 (e : Env0)
deriving DecidableEq, Repr

/-- The machine. -/
structure State where
  /-- the parameters of 00_scope.md R7; no step writes them -/
  cfg : Config
  /-- E[0] to E[15] (10_state.md R21) -/
  e : Vector Half 16
  /-- the Device Context (10_state.md R27) -/
  ctx : Context
  /-- the sequencer (10_state.md R24, R25) -/
  seq : Sequencer
  /-- the response port: the word answered and not yet replaced by a new command (30_encoding.md R86; log 7) -/
  response : Option Word
  /-- every bus access so far, oldest first (20_memory.md R51) -/
  history : List BusEvent
  /-- the environment (20_memory.md R52) -/
  env : Environment
  /-- how many free answers the environment has given (the model's own; log 3) -/
  draws : Nat
  /-- the command words the host presents, in order (the model's own; log 6) -/
  commands : List Command
  /-- the reset input: asserted once the block has made this many more accesses (the model's own; log 8) -/
  resetIn : Option Nat
  /-- how many resets there have been since the first (the model's own; log 4) -/
  resets : Nat
deriving DecidableEq, Repr

/-- The block never faults: every failure is a status in a response (60_exceptions.md R265, R272), and a hang is an
infinite run of polls (R278). No constructor, so no one raises one. -/
inductive Fault
deriving DecidableEq, Repr

/-- Why a command has no meaning. -/
inductive Refusal where
  /-- Raised by an arm of exec whose command has no meaning yet; safe, since nothing is claimed of it. No arm raises
  it now. -/
  | notModelled (mnemonic : String)
deriving DecidableEq, Repr

/-- The operand registers after reset number n: unspecified (10_state.md R34), so free values (log 4). -/
def resetOperands (n : Nat) : Vector Half 16 := Vector.ofFn fun i => Config.resetOperand n i.val

/-- The Device Context after reset number n: invalid, its other fields unspecified (10_state.md R34; log 5). -/
def resetContext (n : Nat) : Context :=
  { valid := false, deviceId := Config.resetContext n 0, portCount := Config.resetContext n 1,
    maxPorts := Config.resetContext n 2, cpuPort := Config.resetContext n 3,
    validPortMask := Config.resetContext n 4, validPhyMask := Config.resetContext n 5 }

/-- The machine right after reset (10_state.md R34, 70_reset_and_hazards.md R295): IDLE, the context invalid, no
response pending, nothing latched, the environment under no assumption. -/
def State.reset : State :=
  { cfg := cfg0, e := resetOperands 0, ctx := resetContext 0, seq := .idle, response := none, history := [],
    env := .script [] [], draws := 0, commands := [], resetIn := none, resets := 0 }

end Sys2Proof.Machine
end

