-- ==== Sys2Proof/Machine/Environment.lean ====
section
/-! DEFINITION. The cells of an environment and the reference environment ENV0 (20_memory.md R53, R70). -/

namespace Sys2Proof.Machine

/-! ## Cells -/

/-- The cell at a number; an unlisted cell reads 0x0000 (R70). -/
def readCell : Memory → Nat → Half
  | [], _ => 0
  | (b, v) :: rest, a => if b = a then v else readCell rest a

/-- The cells after one is written, in canonical form: a cell that reads 0x0000 is not listed. -/
def writeCell : Memory → Nat → Half → Memory
  | [], a, v => if v = 0 then [] else [(a, v)]
  | (b, u) :: rest, a, v =>
    if a < b then (if v = 0 then (b, u) :: rest else (a, v) :: (b, u) :: rest)
    else if a = b then (if v = 0 then rest else (a, v) :: rest)
    else (b, u) :: writeCell rest a v

/-- The canonical form: cell numbers strictly rising, no cell 0x0000. -/
def Memory.wf : Memory → Bool
  | [] => true
  | (a, v) :: rest => decide (v ≠ 0) && rest.all (fun c => decide (a < c.1)) && Memory.wf rest

/-- The number of the cell at a device and register address (R53: 32 registers a device). -/
def cellNumber (dev : Nat) (reg : RegNum) : Nat := dev * 32 + reg.toNat

/-! ## ENV0 (R70) -/

/-- The device address a control word carries in the CFG0 layout, `w[20:16]`. -/
def env0Dev (w : Word) : Nat := (w.extractLsb' 16 5).toNat

/-- The register address a control word carries in the CFG0 layout, `w[25:21]`. -/
def env0Reg (w : Word) : RegNum := w.extractLsb' 21 5

/-- Whether a cell is the ATU's operation register. -/
def isAtuOperation (cfg : Config) (dev : Nat) (reg : RegNum) : Bool :=
  decide (dev = cfg.map.globalAddr) && decide (reg = cfg.atu.operation)

/-- Whether a cell is the PVT's operation register. -/
def isPvtOperation (cfg : Config) (dev : Nat) (reg : RegNum) : Bool :=
  decide (dev = cfg.map.global2Addr) && decide (reg = cfg.pvt.addr)

/-- What a cell with stored value `v` reads as, `busy` counting the reads that still show bit 15 set. -/
def showBusy (busy : Option Nat) (v : Half) : Half :=
  match busy with
  | none => v
  | some 0 => v &&& 0x7FFF
  | some (_ + 1) => v ||| 0x8000

/-- ENV0's read of CTRL: never busy, always read-valid, the latch in the low half. -/
def env0Ctrl (cfg : Config) (e : Env0) : Word := (1 <<< cfg.bus.rvalidBit) ||| e.rl.setWidth 32

/-- ENV0 on a read command: the cell goes into the latch. -/
def env0Read (cfg : Config) (dev : Nat) (reg : RegNum) (e : Env0) : Env0 :=
  let v := readCell e.sw (cellNumber dev reg)
  if isAtuOperation cfg dev reg then
    { e with rl := showBusy e.atuBusy v, atuBusy := e.atuBusy.map (· - 1) }
  else if isPvtOperation cfg dev reg then
    { e with rl := showBusy e.pvtBusy v, pvtBusy := e.pvtBusy.map (· - 1) }
  else { e with rl := v }

/-- ENV0 on a write command: an operation register keeps the word without its busy bit, or in ENV0(d) keeps it whole
and shows busy for the next d reads; any other cell takes the value. -/
def env0Write (cfg : Config) (dev : Nat) (reg : RegNum) (v : Half) (e : Env0) : Env0 :=
  let cell := cellNumber dev reg
  if isAtuOperation cfg dev reg then
    match e.delay with
    | none => { e with sw := writeCell e.sw cell (v &&& 0x7FFF) }
    | some d => { e with sw := writeCell e.sw cell v, atuBusy := some d }
  else if isPvtOperation cfg dev reg then
    match e.delay with
    | none => { e with sw := writeCell e.sw cell (v &&& 0x7FFF) }
    | some d => { e with sw := writeCell e.sw cell v, pvtBusy := some d }
  else { e with sw := writeCell e.sw cell v }

/-- ENV0 on a write of CTRL: `w[26]` says read or write (R70). -/
def env0Command (cfg : Config) (w : Word) (e : Env0) : Env0 :=
  if w.getLsbD 26 then env0Read cfg (env0Dev w) (env0Reg w) e
  else env0Write cfg (env0Dev w) (env0Reg w) (w.extractLsb' 0 16) e

/-- What a write of CTRL does to the environment: a script ignores it (R71). -/
def absorb (cfg : Config) (w : Word) : Environment → Environment
  | .script ctrl data => .script ctrl data
  | .env0 e => .env0 (env0Command cfg w e)

/-- ENV0 with cells `sw`, as a test starts it (R70; 90_conflicts.md C9). -/
def env0Start (sw : Memory) : Environment :=
  .env0 { sw := sw, rl := 0, delay := none, atuBusy := none, pvtBusy := none }

/-- ENV0(d) with cells `sw`, as a test starts it (R70). -/
def env0StartBusy (d : Nat) (sw : Memory) : Environment :=
  .env0 { sw := sw, rl := 0, delay := some d, atuBusy := none, pvtBusy := none }

end Sys2Proof.Machine
end

