-- ==== Sys2Proof/Machine/Flags.lean ====
section
/-! DEFINITION. The block has no flags (10_state.md R26): the only outcome indicator is the status in the response
word (30_encoding.md R86, R87). -/

namespace Sys2Proof.Machine

/-- The codes of R87; 6 to 15 are never produced. -/
def statusCode : Status → BitVec 4
  | .ok => 0
  | .fail => 1
  | .invalidAddress => 2
  | .timeout => 3
  | .badParameter => 4
  | .notSupported => 5

/-- The response word (R86): bits 31:20 zero, the status code in 19:16, the value in 15:0. -/
def responseWord (st : Status) (v : Half) : Word := 0#12 ++ statusCode st ++ v

/-- The status code of a response word. -/
def responseCode (rw : Word) : BitVec 4 := rw.extractLsb' 16 4

/-- The value of a response word. -/
def responseValue (rw : Word) : Half := rw.extractLsb' 0 16

end Sys2Proof.Machine
end

