-- ==== Sys2Proof/Machine/Ops.lean ====
section
/-! DEFINITION. The named operations over the machine: the pseudocode primitives of 00_scope.md R11, the answer to a
command, the abort, and the block's reset. -/

namespace Sys2Proof.Machine

/-! ## Operand registers (10_state.md R21) -/

/-- `E[i]` -/
def readE (i : BitVec 4) (s : State) : Half := s.e[i.toNat]'i.isLt

/-- `E[i] <- v` -/
def writeE (i : BitVec 4) (v : Half) (s : State) : State := { s with e := s.e.set i.toNat v i.isLt }

/-! ## The answer to a command, and the abort

A non-Ok status is what this block has for an exception, the abort of the remaining steps for its entry
(60_exceptions.md, its opening and R272, R276): nothing is saved, no mode changes, control goes nowhere. There is no
return from it (R277). -/

/-- `respond(st, v)` (R11): the response word goes to the response port and the sequencer to IDLE. -/
def respond (st : Status) (v : Half) (s : State) : State :=
  { s with response := some (responseWord st v), seq := .idle }

/-- `raise st` (R11): the answer of a command that fails, its value 0 (R86). -/
def raise (st : Status) (s : State) : State := respond st 0 s

/-! ## The three accesses (20_memory.md R51) -/

/-- One access enters the event history (R51). -/
def record (ev : BusEvent) (s : State) : State := { s with history := s.history ++ [ev] }

/-- `MemRead(CTRL, 4)`: what the environment answers (R52), and the state after. -/
def memReadCtrl (s : State) : Word × State :=
  match s.env with
  | .script (c :: cs) ds => (c, record (.readCtrl c) { s with env := .script cs ds })
  | .script [] _ =>
    (Config.envAnswer s.draws, record (.readCtrl (Config.envAnswer s.draws)) { s with draws := s.draws + 1 })
  | .env0 e => (env0Ctrl s.cfg e, record (.readCtrl (env0Ctrl s.cfg e)) s)

/-- `MemWrite(CTRL, 4, w)`. -/
def memWriteCtrl (w : Word) (s : State) : State :=
  record (.writeCtrl w) { s with env := absorb s.cfg w s.env }

/-- `MemRead(DATA, 4)`: what the environment answers (R52), and the state after. -/
def memReadData (s : State) : Word × State :=
  match s.env with
  | .script cs (d :: ds) => (d, record (.readData d) { s with env := .script cs ds })
  | .script _ [] =>
    (Config.envAnswer s.draws, record (.readData (Config.envAnswer s.draws)) { s with draws := s.draws + 1 })
  | .env0 e => (e.rl.setWidth 32, record (.readData (e.rl.setWidth 32)) s)

/-! ## Steps that may fail: the `?` of R11 -/

/-- A piece of a command: it changes the state and gives a value or a failing status. -/
abbrev Bus (α : Type) : Type := State → Except Status α × State

/-- A piece that only gives a value. -/
def give {α : Type} (a : α) : Bus α := fun s => (.ok a, s)

/-- `x <- m?; k x` (R11): a failure of `m` ends the command, and what `m` did stays done (60_exceptions.md R272). -/
def andThen {α β : Type} (m : Bus α) (k : α → Bus β) : Bus β := fun s =>
  match m s with
  | (.ok a, t) => k a t
  | (.error st, t) => (.error st, t)

/-- `E[i] <- v` as a piece of a command: a result is stored as soon as it is read (44_atu_engine.md R202). -/
def storeE (i : BitVec 4) (v : Half) : Bus Unit := fun s => (.ok (), writeE i v s)

/-- A command's last piece: `respond(Ok, v)` with its value, or the abort with its status. -/
def finish (m : Bus Half) (s : State) : State :=
  match m s with
  | (.ok v, t) => respond .ok v t
  | (.error st, t) => raise st t

/-- The status of a piece's outcome. -/
def outcomeStatus {α : Type} : Except Status α → Status
  | .ok _ => .ok
  | .error st => st

/-! ## Reset (10_state.md R34; 70_reset_and_hazards.md R295, R296) -/

/-- What the reset input does to a running machine: IDLE with nothing latched, the context invalid, no response, the
operand registers and context fields unspecified. The environment and the accesses made stay (R296). -/
def resetBlock (s : State) : State :=
  { s with e := resetOperands (s.resets + 1), ctx := resetContext (s.resets + 1), seq := .idle, response := none,
           resetIn := none, resets := s.resets + 1 }

/-- The state after an access already recorded is made again from `s`: the environment answers as it did. -/
def replayAccess (s : State) : BusEvent → State
  | .readCtrl _ => (memReadCtrl s).2
  | .writeCtrl w => memWriteCtrl w s
  | .readData _ => (memReadData s).2

/-- A reset that lands after the first `n` accesses of what leads from `s` to `t` (R296): those accesses stay made,
the rest is abandoned, and no response is delivered. -/
def abandon (n : Nat) (s t : State) : State :=
  let made := ((t.history.drop s.history.length).take n).foldl replayAccess s
  { resetBlock made with commands := t.commands }

/-- A step from `s` to `t` with the reset input due after `n` more accesses (log 8): it is still to come, or it lands
inside this step. -/
def resetWithin (n : Nat) (s t : State) : State :=
  if t.history.length - s.history.length < n then
    { t with resetIn := some (n - (t.history.length - s.history.length)) }
  else abandon n s t

/-! ## The command port (00_scope.md R8; log 6) -/

/-- The state once a command word is taken: the host has had the last response. -/
def acceptCommand (rest : List Command) (s : State) : State := { s with commands := rest, response := none }

/-- The answer to an illegal command word, whatever makes it illegal (30_encoding.md R88): no access, E and CTX
unchanged. -/
def answerIllegal (_why : DecodeError) (s : State) : State := raise .badParameter s

/-- The state with a command word presented next, IDLE and with no reset due, so that the next step takes it (log 6). -/
def presentCommand (w : Command) (s : State) : State :=
  { s with seq := .idle, resetIn := none, commands := w :: s.commands }

/-- Whether the block has nothing to do: IDLE and no command presented. -/
def isQuiet (s : State) : Bool := decide (s.seq = .idle) && s.commands.isEmpty

end Sys2Proof.Machine
end

