-- ==== Sys2Proof/Machine/Operands.lean ====
section
/-! DEFINITION. What the commands compute from their operands: field masks (42_field_codec.md), mapped addresses
(43_address_mapper.md), control and operation words, packed table data (44_atu_engine.md, 45_pvt_engine.md), and the
port-configuration arguments (46_port_config.md). -/

namespace Sys2Proof.Machine

/-! ## Register Field Codec -/

/-- `fieldMask(off, len)` (42_field_codec.md R150): saturating to the top when `off + len ≥ 16`. -/
def fieldMask (off : BitVec 4) (len : BitVec 5) : Half :=
  if 16 ≤ off.toNat + len.toNat then ~~~((1#16 <<< off.toNat) - 1)
  else ((1#16 <<< len.toNat) - 1) <<< off.toNat

/-- The register value a field write puts back: `(r & ~m) | (trunc_16(val << off) & m)` (R151). -/
def mergeField (r : Half) (off : BitVec 4) (len : BitVec 5) (val : Half) : Half :=
  (r &&& ~~~(fieldMask off len)) ||| ((val <<< off.toNat) &&& fieldMask off len)

/-! ## Address Mapper -/

/-- The access kind of a code (30_encoding.md R85): 0, 6 and 7 are Unknown, unless one of them is KIND_CODE_GLOBAL3. -/
def decodeKind (cfg : Config) (k : BitVec 3) : AccessKind :=
  match k.toNat with
  | 1 => .phy
  | 2 => .port
  | 3 => .global
  | 4 => .global2
  | 5 => .raw
  | _ => if cfg.map.kindCodeGlobal3 = some k then .global3 else .unknown

/-- `mapAddress(port, kind)` (43_address_mapper.md R165, R167, R168): a sum of naturals, nothing checked (R169). -/
def mapAddress (cfg : Config) (port : Nat) : AccessKind → Nat
  | .phy => port
  | .port => port + cfg.map.portBase
  | .global => cfg.map.globalAddr
  | .global2 => cfg.map.global2Addr
  | .global3 => cfg.map.global3Addr
  | .raw => port
  | .unknown => cfg.map.fallbackAddr

/-! ## Control words -/

/-- The address check's formula (41_bus_transport.md R131), the shift being of naturals: no bit of the shifted
address lies outside DEV_MASK. -/
def addressLegal (cfg : Config) (dev : Nat) : Bool :=
  decide ((dev <<< cfg.bus.devShift) &&& cfg.bus.devMask = dev <<< cfg.bus.devShift)

/-- The device and register address fields of a control word (R135). -/
def addressFields (cfg : Config) (dev : Nat) (reg : RegNum) : Word :=
  BitVec.ofNat 32 (dev <<< cfg.bus.devShift) ||| BitVec.ofNat 32 (reg.toNat <<< cfg.bus.regShift)

/-- `CW_read(dev, reg)` (R135). -/
def cwRead (cfg : Config) (dev : Nat) (reg : RegNum) : Word := addressFields cfg dev reg ||| cfg.bus.opcRead

/-- `CW_write(dev, reg, v)` (R135). -/
def cwWrite (cfg : Config) (dev : Nat) (reg : RegNum) (v : Half) : Word :=
  addressFields cfg dev reg ||| cfg.bus.opcWrite ||| v.setWidth 32

/-! ## Table words -/

/-- `opWord(op, extra)` (44_atu_engine.md R188). -/
def opWord (op : BitVec 3) (extra : Half) : Half := 0x8000 ||| (op.setWidth 16 <<< 12) ||| (extra &&& 0x0FFF)

/-- One monomial of ATU_OP_EXTRA: its output bit, if every operand bit it names is 1 (log 11). -/
def extraTerm (e : BitVec 4 → Half) (t : ExtraTerm) : Half :=
  if t.ins.all (fun b => (e b.reg).getLsbD b.bit.toNat) then 1 <<< t.out.toNat else 0

/-- `ATU_OP_EXTRA(E)` (R188): the sum modulo 2 of its monomials. -/
def atuOpExtra (cfg : Config) (e : BitVec 4 → Half) : Half :=
  cfg.atu.opExtra.foldl (fun acc t => acc ^^^ extraTerm e t) 0

/-- `pvMask = trunc_16((1 << CTX.portCount) - 1)` (R189). -/
def pvMask (ctx : Context) : Half := (1#16 <<< ctx.portCount.toNat) - 1

/-- `packAtuData()` (R189). -/
def packAtuData (s : State) : Half :=
  ((readE 5 s &&& 0xF) <<< s.cfg.atu.stateLsb) |||
  ((readE 4 s &&& pvMask s.ctx) <<< s.cfg.atu.pvLsb) |||
  ((readE 6 s &&& 0x3) <<< s.cfg.atu.prioLsb) |||
  (match s.cfg.atu.trunkBit with
    | some t => (readE 7 s &&& 1) <<< t
    | none => 0)

/-- Unpacking a data word into E[4], E[5], E[6], and E[7] if ATU_TRUNK_BIT places it (R190). -/
def unpackAtuData (d : Half) (s : State) : State :=
  let u := writeE 6 ((d >>> s.cfg.atu.prioLsb) &&& 0x3)
    (writeE 4 ((d >>> s.cfg.atu.pvLsb) &&& pvMask s.ctx)
      (writeE 5 ((d >>> s.cfg.atu.stateLsb) &&& 0xF) s))
  match s.cfg.atu.trunkBit with
  | some t => writeE 7 ((d >>> t) &&& 1) u
  | none => u

/-- `flushData()` (R192): the move directive for entryState 0xF, else 0. -/
def flushData (s : State) : Half :=
  if readE 5 s &&& 0xF = 0xF then 0x000F ||| ((readE 9 s &&& 0xF) <<< 4) ||| ((readE 10 s &&& 0xF) <<< 8)
  else 0x0000

/-- The database number: twelve bits of E[3] (R193). -/
def databaseNumber (s : State) : Half := readE 3 s &&& 0x0FFF

/-- `violKind(nib)` (R201): None 0, Age 1, Member 2, Miss 3, Full 4, by bit tests from 8 down. -/
def violKind (nib : BitVec 4) : Half :=
  if nib &&& 8 ≠ 0 then 1
  else if nib &&& 4 ≠ 0 then 2
  else if nib &&& 2 ≠ 0 then 3
  else if nib &&& 1 ≠ 0 then 4
  else 0

/-- The cause nibble of the ATU's operation register (R200). -/
def violNibble (cfg : Config) (o : Half) : BitVec 4 := o.extractLsb' cfg.atu.violNibbleLsb 4

/-- The state field of the data word ATU_SVC_VIOL reads back (R200). -/
def violState (cfg : Config) (d : Half) : Half := (d >>> cfg.atu.stateLsb) &&& 0xF

/-- What becomes of a result register's value `v`, stored as soon as it is read (R190, R191, R200, R202). -/
def useResult (u : ResultUse) (v : Half) (s : State) : State :=
  match u with
  | .store i => writeE i v s
  | .storeDatabase => writeE 3 (v &&& 0x0FFF) s
  | .storeState => writeE 5 (violState s.cfg v) s
  | .unpackEntry => unpackAtuData v s
  | .storeKind => writeE 11 (violKind (violNibble s.cfg v)) s

/-- Whether a result ends the reading: a violation of kind None under VIOL_NONE_SKIPS_READBACK (R200). -/
def endsReadBack (cfg : Config) (u : ResultUse) (v : Half) : Bool :=
  decide (u = .storeKind) && decide (violKind (violNibble cfg v) = 0) && cfg.atu.violNoneSkipsReadback

/-! ## Port configuration -/

/-- The number of a register a descriptor names (46_port_config.md R237, R249). -/
def regNumber (cfg : Config) : NamedReg → RegNum
  | .portControl => cfg.port.portControl
  | .portControl2 => cfg.port.portControl2
  | .pcsControl => cfg.port.pcsControl
  | .pvid => cfg.port.pvid
  | .phyControl => cfg.phy.control
  | .phySpecControl => cfg.phy.specControl
  | .phyPageReg => cfg.phy.pageReg
  | .number r => r

/-- Membership in a legal set (R236, R237). -/
def inRanges (ranges : List (Half × Half)) (v : Half) : Bool :=
  ranges.any fun r => decide (r.1.toNat ≤ v.toNat) && decide (v.toNat ≤ r.2.toNat)

/-- `pcfgLegal(id, op)` (R250). -/
def pcfgLegal (cfg : Config) (id : Half) (op : PortOp) : Bool := !cfg.port.illegal.contains (id, op)

/-- The three jumbo modes (R246). -/
inductive JumboMode where
  | a | b | c
deriving DecidableEq, Repr

/-- `jumboMode(size)` (R246): JUMBO_T1 is 1522 and JUMBO_T2 is 2048. -/
def jumboMode (size : Half) : JumboMode :=
  if size.toNat ≤ 1522 then .a else if size.toNat ≤ 2048 then .b else .c

/-- The code written for a mode (R246). -/
def jumboCode (cfg : Config) : JumboMode → Half
  | .a => cfg.port.jumboA.setWidth 16
  | .b => cfg.port.jumboB.setWidth 16
  | .c => cfg.port.jumboC.setWidth 16

end Sys2Proof.Machine
end

