-- ==== Sys2Proof/Machine/Transport.lean ====
section
/-! DEFINITION. The Bus Transport (41_bus_transport.md) and the Register Field Codec's read-modify-write
(42_field_codec.md), with the three commands at a raw device address. -/

namespace Sys2Proof.Machine

/-- `PollBusy` with `n` reads left (R132, phase T_BUSY): success at the first read that shows busy clear. -/
def pollBusyFrom : Nat → Bus Unit
  | 0, s => (.error .timeout, s)
  | n + 1, s =>
    if (memReadCtrl s).1.getLsbD s.cfg.bus.busyBit then pollBusyFrom n (memReadCtrl s).2
    else (.ok (), (memReadCtrl s).2)

/-- `PollBusy()` (R132): at most BUSY_POLL_MAX reads. -/
def pollBusy : Bus Unit := fun s => pollBusyFrom s.cfg.bus.busyPollMax s

/-- `PollValid` with `m` reads left (R136, phase T_RVALID): success at the first read that shows read-valid. -/
def pollValidFrom : Nat → Bus Unit
  | 0, s => (.error .timeout, s)
  | m + 1, s =>
    if (memReadCtrl s).1.getLsbD s.cfg.bus.rvalidBit then (.ok (), (memReadCtrl s).2)
    else pollValidFrom m (memReadCtrl s).2

/-- `PollValid()` (R136): at most RVALID_POLL_MAX reads. -/
def pollValid : Bus Unit := fun s => pollValidFrom s.cfg.bus.rvalidPollMax s

/-- Issuing a control word in one bus cycle (R135, phase T_ISSUE). -/
def issue (w : Word) : Bus Unit := fun s => (.ok (), memWriteCtrl w s)

/-- The data read, masked to 16 bits (R137, phase T_DATA). -/
def fetchData : Bus Half := fun s => (.ok ((memReadData s).1.extractLsb' 0 16), (memReadData s).2)

/-- The address check before a transport operation (R131, phase T_CHECK): no access when it fails. -/
def checkAddress (dev : Nat) : Bus Unit := fun s =>
  if addressLegal s.cfg dev then (.ok (), s) else (.error .invalidAddress, s)

/-- `SmiRead(dev, reg)` (R133). -/
def smiRead (dev : Nat) (reg : RegNum) : Bus Half :=
  andThen (checkAddress dev) fun _ =>
  andThen pollBusy fun _ =>
  andThen (fun s => issue (cwRead s.cfg dev reg) s) fun _ =>
  andThen pollValid fun _ =>
  fetchData

/-- `SmiWrite(dev, reg, v)` (R134): it does not wait for the cycle to finish. -/
def smiWrite (dev : Nat) (reg : RegNum) (v : Half) : Bus Unit :=
  andThen (checkAddress dev) fun _ =>
  andThen pollBusy fun _ =>
  fun s => issue (cwWrite s.cfg dev reg v) s

/-- `writeField(dev, reg, off, len, val)` (42_field_codec.md R151, phases C_READ and C_WRITE): the write is made
even when it changes nothing. -/
def writeField (dev : Nat) (reg : RegNum) (off : BitVec 4) (len : BitVec 5) (val : Half) : Bus Unit :=
  andThen (smiRead dev reg) fun r =>
  smiWrite dev reg (mergeField r off len val)

/-- SMI_RD (R140). -/
def execSmiRd (dev : BitVec 8) (reg : RegNum) (s : State) : Host.Outcome State Fault Refusal :=
  .next (finish (smiRead dev.toNat reg) s)

/-- SMI_WR (R141). -/
def execSmiWr (dev : BitVec 8) (reg : RegNum) (val : Half) (s : State) : Host.Outcome State Fault Refusal :=
  .next (finish (andThen (smiWrite dev.toNat reg val) fun _ => give 0) s)

/-- SMI_FLD_WR (42_field_codec.md R154). -/
def execSmiFldWr (dev : BitVec 8) (reg : RegNum) (off : BitVec 4) (len : BitVec 5) (val : Half) (s : State) :
    Host.Outcome State Fault Refusal :=
  .next (finish (andThen (writeField dev.toNat reg off len val) fun _ => give 0) s)

end Sys2Proof.Machine
end

