-- ==== Sys2Proof/Machine/Table.lean ====
section
/-! DEFINITION. The Indirect Table Engine's generic rules (44_atu_engine.md R185 to R188, R202, R204): Busy-Wait, Commit,
Busy-Wait for read-style opcodes, Read-Result. -/

namespace Sys2Proof.Machine

/-- What a table command does between its waits: the device of its registers, the operation register it polls, the
register writes of E_DATA and E_COMMIT in order, the operation word last (R187), the registers of E_RESULT with what
becomes of each, the operand register whose value it answers if any, and whether its opcode is read-style (R204). -/
structure TablePlan where
  dev : Nat
  opReg : RegNum
  commit : State → List (RegNum × Half)
  results : List (RegNum × ResultUse)
  answer : Option (BitVec 4)
  readStyle : Bool

/-- E_DATA and E_COMMIT: the writes in order (R187). -/
def writeAll (dev : Nat) : List (RegNum × Half) → Bus Unit
  | [] => give ()
  | w :: rest => andThen (smiWrite dev w.1 w.2) fun _ => writeAll dev rest

/-- E_RESULT: the registers read in order, each result stored as soon as it is read (R202). -/
def readAll (dev : Nat) : List (RegNum × ResultUse) → Bus Unit
  | [] => give ()
  | r :: rest =>
    andThen (smiRead dev r.1) fun v =>
    andThen (fun s => (.ok (endsReadBack s.cfg r.2 v), useResult r.2 v s)) fun ended =>
    if ended then give () else readAll dev rest

/-- What a table command answers when nothing failed. -/
def answerValue (answer : Option (BitVec 4)) (s : State) : Half :=
  match answer with
  | some i => readE i s
  | none => 0

/-- E_RESULT and the answer. -/
def tableResult (p : TablePlan) : Bus Half :=
  andThen (readAll p.dev p.results) fun _ => fun s => give (answerValue p.answer s) s

/-- Whether `k` busy polls exhaust TABLE_WAIT_BOUND (R186); never when it is not set. -/
def waitExhausted (cfg : Config) (k : Nat) : Bool :=
  match cfg.tableWaitBound with
  | some b => decide (b ≤ k)
  | none => false

/-- One poll of `TableWait` (R186), `k` polls having shown busy: a transport failure ends the command, busy clear goes
on with `onClear`, busy set leaves the command waiting, so that an endless wait is an endless run of steps (60_exceptions.md
R278; log 1). -/
def tableWait (c : TableCmd) (ph : WaitPhase) (k : Nat) (p : TablePlan) (onClear : State → State) (s : State) : State :=
  match smiRead p.dev p.opReg s with
  | (.error st, t) => raise st t
  | (.ok v, t) =>
    if v.getLsbD 15 then
      if waitExhausted t.cfg (k + 1) then raise .timeout t else { t with seq := .waiting c ph (k + 1) }
    else onClear t

/-- E_POSTWAIT and E_RESULT from the `k`-th poll on. -/
def runPostWait (c : TableCmd) (k : Nat) (p : TablePlan) (s : State) : State :=
  tableWait c .post k p (finish (tableResult p)) s

/-- E_DATA and E_COMMIT, then the second wait if the opcode is read-style or POST_WAIT_ALL is set
(R185; 90_conflicts.md C2). -/
def runCommit (c : TableCmd) (p : TablePlan) (s : State) : State :=
  match writeAll p.dev (p.commit s) s with
  | (.error st, t) => raise st t
  | (.ok _, t) => if p.readStyle || t.cfg.postWaitAll then runPostWait c 0 p t else respond .ok 0 t

/-- E_PREWAIT from the `k`-th poll on, and what follows it. -/
def runPreWait (c : TableCmd) (k : Nat) (p : TablePlan) (s : State) : State :=
  tableWait c .pre k p (runCommit c p) s

/-- `require CTX.valid else raise Fail` (40_operand_and_context.md R114, 44_atu_engine.md R203). -/
def requireContext (run : State → State) (s : State) : State :=
  if s.ctx.valid then run s else raise .fail s

end Sys2Proof.Machine
end

