-- ==== Sys2Proof/Machine/Atu.lean ====
section
/-! DEFINITION. The seven ATU commands (44_atu_engine.md R187 to R201). -/

namespace Sys2Proof.Machine

/-- `G`: the device address of the ATU registers. -/
def atuDev (cfg : Config) : Nat := mapAddress cfg 0 .global

/-- The operation word of an opcode (R188). -/
def atuWord (op : BitVec 3) (s : State) : Half := opWord op (atuOpExtra s.cfg fun i => readE i s)

/-- The write of the operation word, the last of every commit (R187). -/
def atuOperation (op : Config → BitVec 3) (s : State) : RegNum × Half :=
  (s.cfg.atu.operation, atuWord (op s.cfg) s)

/-- The three MAC registers (R191). -/
def macReg (cfg : Config) (i : BitVec 4) : RegNum := cfg.atu.macBase + i.setWidth 5

/-- The MAC words and the database number, in that order: what LOAD_PURGE_ENTRY shares with GET_NEXT_ENTRY
(R187, R193, R205). -/
def lookupKey (s : State) : List (RegNum × Half) :=
  [(macReg s.cfg 0, readE 0 s), (macReg s.cfg 1, readE 1 s), (macReg s.cfg 2, readE 2 s),
   (s.cfg.atu.fid, databaseNumber s)]

/-- Reading the three MAC registers into E[0] to E[2] (R191). -/
def macResults (cfg : Config) : List (RegNum × ResultUse) :=
  [(macReg cfg 0, .store 0), (macReg cfg 1, .store 1), (macReg cfg 2, .store 2)]

/-- A plan on the ATU's registers that answers 0 and reads nothing back. -/
def atuPlan (cfg : Config) (commit : State → List (RegNum × Half)) : TablePlan :=
  { dev := atuDev cfg, opReg := cfg.atu.operation, commit := commit, results := [], answer := none, readStyle := false }

/-! ## Plans -/

/-- ATU_FLUSH_ALL (R194). -/
def planAtuFlushAll (cfg : Config) : TablePlan :=
  atuPlan cfg fun s => [(s.cfg.atu.data, flushData s), atuOperation (fun c => c.atu.opFlushAll) s]

/-- ATU_FLUSH_UNLOCKED (R195). -/
def planAtuFlushUnlocked (cfg : Config) : TablePlan :=
  atuPlan cfg fun s => [(s.cfg.atu.data, flushData s), atuOperation (fun c => c.atu.opFlushUnlocked) s]

/-- ATU_LOAD_PURGE (R196): load and purge are not told apart. -/
def planAtuLoadPurge (cfg : Config) : TablePlan :=
  atuPlan cfg fun s =>
    (s.cfg.atu.data, packAtuData s) :: lookupKey s ++ [atuOperation (fun c => c.atu.opLoadPurge) s]

/-- ATU_GET_NEXT (R197). -/
def planAtuGetNext (cfg : Config) : TablePlan :=
  { atuPlan cfg (fun s => lookupKey s ++ [atuOperation (fun c => c.atu.opGetNext) s]) with
    results := (cfg.atu.data, .unpackEntry) :: macResults cfg, readStyle := true }

/-- ATU_FLUSH_ALL_DB (R198). -/
def planAtuFlushAllDb (cfg : Config) : TablePlan :=
  atuPlan cfg fun s =>
    [(s.cfg.atu.data, flushData s), (s.cfg.atu.fid, databaseNumber s), atuOperation (fun c => c.atu.opFlushAllDb) s]

/-- ATU_FLUSH_UNLOCKED_DB (R199). -/
def planAtuFlushUnlockedDb (cfg : Config) : TablePlan :=
  atuPlan cfg fun s =>
    [(s.cfg.atu.data, flushData s), (s.cfg.atu.fid, databaseNumber s),
     atuOperation (fun c => c.atu.opFlushUnlockedDb) s]

/-- ATU_SVC_VIOL (R200): the cause, then the read-back in the source's list order: DBNum, entry state, MAC. -/
def planAtuSvcViol (cfg : Config) : TablePlan :=
  { atuPlan cfg (fun s => [atuOperation (fun c => c.atu.opServiceViolations) s]) with
    results := [(cfg.atu.operation, .storeKind), (cfg.atu.fid, .storeDatabase), (cfg.atu.data, .storeState)] ++
      macResults cfg,
    answer := some 11, readStyle := true }

/-! ## Commands -/

/-- ATU_FLUSH_ALL (R194). -/
def execAtuFlushAll (s : State) : Host.Outcome State Fault Refusal :=
  .next (requireContext (runPreWait .atuFlushAll 0 (planAtuFlushAll s.cfg)) s)

/-- ATU_FLUSH_UNLOCKED (R195). -/
def execAtuFlushUnlocked (s : State) : Host.Outcome State Fault Refusal :=
  .next (requireContext (runPreWait .atuFlushUnlocked 0 (planAtuFlushUnlocked s.cfg)) s)

/-- ATU_LOAD_PURGE (R196). -/
def execAtuLoadPurge (s : State) : Host.Outcome State Fault Refusal :=
  .next (requireContext (runPreWait .atuLoadPurge 0 (planAtuLoadPurge s.cfg)) s)

/-- ATU_GET_NEXT (R197). -/
def execAtuGetNext (s : State) : Host.Outcome State Fault Refusal :=
  .next (requireContext (runPreWait .atuGetNext 0 (planAtuGetNext s.cfg)) s)

/-- ATU_FLUSH_ALL_DB (R198). -/
def execAtuFlushAllDb (s : State) : Host.Outcome State Fault Refusal :=
  .next (requireContext (runPreWait .atuFlushAllDb 0 (planAtuFlushAllDb s.cfg)) s)

/-- ATU_FLUSH_UNLOCKED_DB (R199). -/
def execAtuFlushUnlockedDb (s : State) : Host.Outcome State Fault Refusal :=
  .next (requireContext (runPreWait .atuFlushUnlockedDb 0 (planAtuFlushUnlockedDb s.cfg)) s)

/-- ATU_SVC_VIOL (R200). -/
def execAtuSvcViol (s : State) : Host.Outcome State Fault Refusal :=
  .next (requireContext (runPreWait .atuSvcViol 0 (planAtuSvcViol s.cfg)) s)

end Sys2Proof.Machine
end

