-- ==== Sys2Proof/Machine/Context.lean ====
section
/-! DEFINITION. The operand-register and device-context commands (40_operand_and_context.md). None touches the bus. -/

namespace Sys2Proof.Machine

/-- LDE (R110). -/
def execLde (i : BitVec 4) (imm : Half) (s : State) : Host.Outcome State Fault Refusal :=
  .next (respond .ok 0 (writeE i imm s))

/-- RDE (R111). -/
def execRde (i : BitVec 4) (s : State) : Host.Outcome State Fault Refusal :=
  .next (respond .ok (readE i s) s)

/-- The context CTX_INIT makes of E[0] to E[5] (R112). -/
def contextFromOperands (s : State) : Context :=
  { valid := true, deviceId := readE 0 s, portCount := readE 1 s, maxPorts := readE 2 s, cpuPort := readE 3 s,
    validPortMask := readE 4 s, validPhyMask := readE 5 s }

/-- CTX_INIT (R112): an unsupported identifier leaves the context invalid even if it was valid before. -/
def execCtxInit (s : State) : Host.Outcome State Fault Refusal :=
  .next (if s.cfg.supportedIds.contains (readE 0 s) then respond .ok 0 { s with ctx := contextFromOperands s }
    else raise .notSupported { s with ctx := { s.ctx with valid := false } })

/-- The value fields of the context by index (10_state.md R27). -/
def contextField (ctx : Context) (n : BitVec 4) : Half :=
  match n.toNat with
  | 0 => ctx.deviceId
  | 1 => ctx.portCount
  | 2 => ctx.maxPorts
  | 3 => ctx.cpuPort
  | 4 => ctx.validPortMask
  | 5 => ctx.validPhyMask
  | _ => 0

/-- CTX_RD (R113): field 6 is the valid bit, always readable; an index above 6 is an illegal word, which
the decoder never passes on and which is answered as one (30_encoding.md R88). -/
def execCtxRd (n : BitVec 4) (s : State) : Host.Outcome State Fault Refusal :=
  if 6 < n.toNat then .next (raise .badParameter s)
  else if n.toNat = 6 then .next (respond .ok (if s.ctx.valid then 1 else 0) s)
  else if s.ctx.valid then .next (respond .ok (contextField s.ctx n) s)
  else .next (raise .fail s)

end Sys2Proof.Machine
end

