-- ==== Sys2Proof/Machine/Mapped.lean ====
section
/-! DEFINITION. Mapped register access (43_address_mapper.md R170 to R172). An unknown kind code runs against
FALLBACK_ADDR (R167); the port is not checked (R169). -/

namespace Sys2Proof.Machine

/-- `mapAddress(A, decodeKind(K))` (R170). -/
def mappedDevice (cfg : Config) (port : BitVec 8) (kind : BitVec 3) : Nat :=
  mapAddress cfg port.toNat (decodeKind cfg kind)

/-- REG_RD (R170). -/
def execRegRd (port : BitVec 8) (reg : RegNum) (kind : BitVec 3) (s : State) : Host.Outcome State Fault Refusal :=
  .next (finish (smiRead (mappedDevice s.cfg port kind) reg) s)

/-- REG_WR (R171). -/
def execRegWr (port : BitVec 8) (reg : RegNum) (kind : BitVec 3) (val : Half) (s : State) :
    Host.Outcome State Fault Refusal :=
  .next (finish (andThen (smiWrite (mappedDevice s.cfg port kind) reg val) fun _ => give 0) s)

/-- REG_FLD_WR (R172). -/
def execRegFldWr (port : BitVec 8) (reg : RegNum) (kind : BitVec 3) (off : BitVec 4) (len : BitVec 5) (val : Half)
    (s : State) : Host.Outcome State Fault Refusal :=
  .next (finish (andThen (writeField (mappedDevice s.cfg port kind) reg off len val) fun _ => give 0) s)

end Sys2Proof.Machine
end

