-- ==== Sys2Proof/Machine/Port.lean ====
section
/-! DEFINITION. The port-configuration commands (46_port_config.md). -/

namespace Sys2Proof.Machine

/-- What the checks of a port-configuration command give, all before any access, in the order Fail, NotSupported,
BadParameter (R235, R236, R250; 60_exceptions.md R275). -/
def portStatus (op : PortOp) (legal : Bool) (s : State) : Status :=
  if s.ctx.valid then
    if pcfgLegal s.cfg s.ctx.deviceId op then
      if legal then .ok else .badParameter
    else .notSupported
  else .fail

/-- A port-configuration command runs when its checks pass, and answers what they give when they do not. -/
def portChecks (op : PortOp) (legal : Bool) (run : State → State) (s : State) : State :=
  match portStatus op legal s with
  | .ok => run s
  | st => raise st s

/-- The field write of a descriptor, answered with `answer` (R235). -/
def writeDescribed (d : FieldDesc) (port : BitVec 8) (v answer : Half) (s : State) : State :=
  finish (andThen (writeField (mapAddress s.cfg port.toNat d.kind) (regNumber s.cfg d.reg) d.off d.len v) fun _ =>
    give answer) s

/-- `pcfg(op, port, v)` with the descriptor `d` of `op` (R235). -/
def pcfg (op : PortOp) (d : FieldDesc) (port : BitVec 8) (v : Half) (s : State) : State :=
  portChecks op (inRanges d.legal v) (writeDescribed d port v 0) s

/-- PORT_STATE (R238). -/
def execPortState (port : BitVec 8) (v : Half) (s : State) : Host.Outcome State Fault Refusal :=
  .next (pcfg .portState s.cfg.port.descState port v s)

/-- PORT_FRAME_MODE (R239, R248). -/
def execPortFrameMode (port : BitVec 8) (v : Half) (s : State) : Host.Outcome State Fault Refusal :=
  .next (pcfg .portFrameMode s.cfg.port.descFrameMode port v s)

/-- PORT_VLAN_MEMBERS (R240). -/
def execPortVlanMembers (port : BitVec 8) (v : Half) (s : State) : Host.Outcome State Fault Refusal :=
  .next (pcfg .portVlanMembers s.cfg.port.descVlanMembers port v s)

/-- PORT_HEADER_MODE (R241). -/
def execPortHeaderMode (port : BitVec 8) (v : Half) (s : State) : Host.Outcome State Fault Refusal :=
  .next (pcfg .portHeaderMode s.cfg.port.descHeaderMode port v s)

/-- PCS_FORCE_SPEED (R242). -/
def execPcsForceSpeed (port : BitVec 8) (v : Half) (s : State) : Host.Outcome State Fault Refusal :=
  .next (pcfg .pcsForceSpeed s.cfg.port.descForceSpeed port v s)

/-- PCS_FORCE_DUPLEX (R243). -/
def execPcsForceDuplex (port : BitVec 8) (v : Half) (s : State) : Host.Outcome State Fault Refusal :=
  .next (pcfg .pcsForceDuplex s.cfg.port.descForceDuplex port v s)

/-- PCS_FORCE_FC (R244). -/
def execPcsForceFc (port : BitVec 8) (v : Half) (s : State) : Host.Outcome State Fault Refusal :=
  .next (pcfg .pcsForceFc s.cfg.port.descForceFc port v s)

/-- PCS_FORCE_LINK (R245). -/
def execPcsForceLink (port : BitVec 8) (v : Half) (s : State) : Host.Outcome State Fault Refusal :=
  .next (pcfg .pcsForceLink s.cfg.port.descForceLink port v s)

/-- PORT_JUMBO (R246, R247): the mode code is written and answered, and every size is legal. -/
def execPortJumbo (port : BitVec 8) (size : Half) (s : State) : Host.Outcome State Fault Refusal :=
  let code := jumboCode s.cfg (jumboMode size)
  .next (portChecks .portJumbo true (writeDescribed s.cfg.port.descJumbo port code code) s)

/-- The bits of PHY_POWER in order, ending at the first failure (R249). -/
def powerBits (dev : Nat) (v : Half) : List PowerBit → Bus Unit
  | [] => give ()
  | b :: rest =>
    andThen (fun s => writeField dev (regNumber s.cfg b.reg) b.off b.len (if v = 0 then b.down else b.up) s) fun _ =>
    powerBits dev v rest

/-- The page restore, made on every path once the page was entered, and the answer: the first failure, or the
restore's own status (R249). -/
def restorePage (dev : Nat) (first : Status) (s : State) : State :=
  match smiWrite dev s.cfg.phy.pageReg s.cfg.phy.pageDefault s with
  | (r, t) => respond (if first = .ok then outcomeStatus r else first) 0 t

/-- Page, bits, page-restore (R249); if the page is not entered, nothing is restored. -/
def powerSequence (dev : Nat) (v : Half) (s : State) : State :=
  match smiWrite dev s.cfg.phy.pageReg s.cfg.phy.powerPage s with
  | (.error st, t) => raise st t
  | (.ok _, t) =>
    match powerBits dev v t.cfg.phy.powerBits t with
    | (r, u) => restorePage dev (outcomeStatus r) u

/-- PHY_POWER (R249). -/
def execPhyPower (port : BitVec 8) (v : Half) (s : State) : Host.Outcome State Fault Refusal :=
  .next (portChecks .phyPower (decide (v.toNat ≤ 1)) (powerSequence (mapAddress s.cfg port.toNat .phy) v) s)

end Sys2Proof.Machine
end

