-- ==== Sys2Proof/Machine/Pvt.lean ====
section
/-! DEFINITION. The two PVT commands (45_pvt_engine.md). They read no context field (40_operand_and_context.md R114). -/

namespace Sys2Proof.Machine

/-- `G2`: the device address of the PVT registers. -/
def pvtDev (cfg : Config) : Nat := mapAddress cfg 0 .global2

/-- The write of the operation word, which carries the cell address (R223). -/
def pvtOperation (op : Config → BitVec 3) (s : State) : RegNum × Half :=
  (s.cfg.pvt.addr, opWord (op s.cfg) (readE 12 s &&& s.cfg.pvt.addrMask))

/-- PVT_WRITE (R221). -/
def planPvtWrite (cfg : Config) : TablePlan :=
  { dev := pvtDev cfg, opReg := cfg.pvt.addr, results := [], answer := none, readStyle := false,
    commit := fun s => [(s.cfg.pvt.data, readE 13 s), pvtOperation (fun c => c.pvt.opWrite) s] }

/-- PVT_READ (R222). -/
def planPvtRead (cfg : Config) : TablePlan :=
  { dev := pvtDev cfg, opReg := cfg.pvt.addr, results := [(cfg.pvt.data, .store 13)], answer := some 13, readStyle := true,
    commit := fun s => [pvtOperation (fun c => c.pvt.opRead) s] }

/-- PVT_WRITE (R221). -/
def execPvtWrite (s : State) : Host.Outcome State Fault Refusal :=
  .next (runPreWait .pvtWrite 0 (planPvtWrite s.cfg) s)

/-- PVT_READ (R222). -/
def execPvtRead (s : State) : Host.Outcome State Fault Refusal :=
  .next (runPreWait .pvtRead 0 (planPvtRead s.cfg) s)

end Sys2Proof.Machine
end

