-- ==== Sys2Proof/Machine/Dispatch.lean ====
section
/-! DEFINITION. One arm per command (30_encoding.md R83). -/

namespace Sys2Proof.Machine

def exec (i : Instr) (s : State) : Host.Outcome State Fault Refusal :=
  match i with
  | .lde n imm => Sys2Proof.Machine.execLde n imm s
  | .rde n => Sys2Proof.Machine.execRde n s
  | .ctxInit => Sys2Proof.Machine.execCtxInit s
  | .ctxRd n => Sys2Proof.Machine.execCtxRd n s
  | .smiRd dev reg => Sys2Proof.Machine.execSmiRd dev reg s
  | .smiWr dev reg val => Sys2Proof.Machine.execSmiWr dev reg val s
  | .smiFldWr dev reg off len val => Sys2Proof.Machine.execSmiFldWr dev reg off len val s
  | .regRd port reg kind => Sys2Proof.Machine.execRegRd port reg kind s
  | .regWr port reg kind val => Sys2Proof.Machine.execRegWr port reg kind val s
  | .regFldWr port reg kind off len val => Sys2Proof.Machine.execRegFldWr port reg kind off len val s
  | .atuFlushAll => Sys2Proof.Machine.execAtuFlushAll s
  | .atuFlushUnlocked => Sys2Proof.Machine.execAtuFlushUnlocked s
  | .atuLoadPurge => Sys2Proof.Machine.execAtuLoadPurge s
  | .atuGetNext => Sys2Proof.Machine.execAtuGetNext s
  | .atuFlushAllDb => Sys2Proof.Machine.execAtuFlushAllDb s
  | .atuFlushUnlockedDb => Sys2Proof.Machine.execAtuFlushUnlockedDb s
  | .atuSvcViol => Sys2Proof.Machine.execAtuSvcViol s
  | .pvtWrite => Sys2Proof.Machine.execPvtWrite s
  | .pvtRead => Sys2Proof.Machine.execPvtRead s
  | .portState port v => Sys2Proof.Machine.execPortState port v s
  | .portFrameMode port v => Sys2Proof.Machine.execPortFrameMode port v s
  | .portVlanMembers port v => Sys2Proof.Machine.execPortVlanMembers port v s
  | .portHeaderMode port v => Sys2Proof.Machine.execPortHeaderMode port v s
  | .pcsForceSpeed port v => Sys2Proof.Machine.execPcsForceSpeed port v s
  | .pcsForceDuplex port v => Sys2Proof.Machine.execPcsForceDuplex port v s
  | .pcsForceFc port v => Sys2Proof.Machine.execPcsForceFc port v s
  | .pcsForceLink port v => Sys2Proof.Machine.execPcsForceLink port v s
  | .portJumbo port size => Sys2Proof.Machine.execPortJumbo port size s
  | .phyPower port v => Sys2Proof.Machine.execPhyPower port v s

end Sys2Proof.Machine
end

