-- ==== Sys2Proof/Machine/Sequencer.lean ====
section
/-! DEFINITION. A waiting table command goes on: the next poll of its Busy-Wait and, once busy is clear, what follows
(44_atu_engine.md R186; log 1). -/

namespace Sys2Proof.Machine

/-- The plan of a latched table command. -/
def tablePlan (cfg : Config) : TableCmd → TablePlan
  | .atuFlushAll => planAtuFlushAll cfg
  | .atuFlushUnlocked => planAtuFlushUnlocked cfg
  | .atuLoadPurge => planAtuLoadPurge cfg
  | .atuGetNext => planAtuGetNext cfg
  | .atuFlushAllDb => planAtuFlushAllDb cfg
  | .atuFlushUnlockedDb => planAtuFlushUnlockedDb cfg
  | .atuSvcViol => planAtuSvcViol cfg
  | .pvtWrite => planPvtWrite cfg
  | .pvtRead => planPvtRead cfg

/-- Whether a table command needs the Device Context (40_operand_and_context.md R114): the seven ATU commands. -/
def needsContext : TableCmd → Bool
  | .atuFlushAll => true
  | .atuFlushUnlocked => true
  | .atuLoadPurge => true
  | .atuGetNext => true
  | .atuFlushAllDb => true
  | .atuFlushUnlockedDb => true
  | .atuSvcViol => true
  | .pvtWrite => false
  | .pvtRead => false

/-- The latched command of a wait, as the command word it came from (10_state.md R31; log 13). -/
def latchedCommand : TableCmd → Instr
  | .atuFlushAll => .atuFlushAll
  | .atuFlushUnlocked => .atuFlushUnlocked
  | .atuLoadPurge => .atuLoadPurge
  | .atuGetNext => .atuGetNext
  | .atuFlushAllDb => .atuFlushAllDb
  | .atuFlushUnlockedDb => .atuFlushUnlockedDb
  | .atuSvcViol => .atuSvcViol
  | .pvtWrite => .pvtWrite
  | .pvtRead => .pvtRead

/-- One more poll of a waiting command, in the wait it is in. -/
def resume (c : TableCmd) (ph : WaitPhase) (k : Nat) (s : State) : State :=
  match ph with
  | .pre => runPreWait c k (tablePlan s.cfg c) s
  | .post => runPostWait c k (tablePlan s.cfg c) s

end Sys2Proof.Machine
end

