-- ==== Sys2Proof/Machine/Phases.lean ====
section
/-! DEFINITION. The sequencer's own steps: one access, or the acceptance of a command, or the delivery of a response
(00_scope.md R9; 10_state.md R24, R25, R31; log 1). The meanings of the commands run a whole command; this file runs
the same command access by access, over the same operands, plans and words. -/

namespace Sys2Proof.Machine

/-! ## What a command has to run -/

/-- The descriptor's field write, then the answer (46_port_config.md R235). -/
def describedTasks (cfg : Config) (d : FieldDesc) (port : BitVec 8) (v answer : Half) : List Task :=
  [.read (mapAddress cfg port.toNat d.kind) (regNumber cfg d.reg),
   .merge (mapAddress cfg port.toNat d.kind) (regNumber cfg d.reg) d.off d.len v, .answer answer]

/-- One poll of a Busy-Wait (44_atu_engine.md R186). -/
def pollTasks (cfg : Config) (c : TableCmd) (ph : WaitPhase) (k : Nat) : List Task :=
  [.read (tablePlan cfg c).dev (tablePlan cfg c).opReg, .test c ph k]

/-- E_DATA and E_COMMIT, then the second wait if R185 has one, or the answer. -/
def commitTasks (c : TableCmd) (s : State) : List Task :=
  ((tablePlan s.cfg c).commit s).map (fun w => .write (tablePlan s.cfg c).dev w.1 w.2) ++
  (if (tablePlan s.cfg c).readStyle || s.cfg.postWaitAll then pollTasks s.cfg c .post 0 else [.answer 0])

/-- What a table command answers. -/
def answerTask : Option (BitVec 4) → Task
  | some i => .answerE i
  | none => .answer 0

/-- E_RESULT and the answer. -/
def resultTasks (cfg : Config) (c : TableCmd) : List Task :=
  (tablePlan cfg c).results.flatMap (fun r => [.read (tablePlan cfg c).dev r.1, .use r.2]) ++
  [answerTask (tablePlan cfg c).answer]

/-- The bits of PHY_POWER, the page restore, and the answer (46_port_config.md R249). -/
def pageTasks (cfg : Config) (dev : Nat) (v : Half) : List Task :=
  cfg.phy.powerBits.flatMap (fun b =>
    [.read dev (regNumber cfg b.reg),
     .merge dev (regNumber cfg b.reg) b.off b.len (if v = 0 then b.down else b.up)]) ++
  [.restorePage dev, .answer 0]

/-- A command with `todo` to run, nothing failed yet. -/
def begun (todo : List Task) : Work := { status := .ok, last := 0, trans := none, todo := todo }

/-- A command that only has to answer `st`. -/
def turnedAway (st : Status) : Work := { begun [.answer 0] with status := st }

/-- A command with `todo` to run if its checks give Ok, else with their status to answer. -/
def checkedWork (st : Status) (todo : List Task) : Work :=
  match st with
  | .ok => begun todo
  | st => turnedAway st

/-- A table command accepted: its context check, then the first poll (44_atu_engine.md R203; 40_operand_and_context.md
R114). -/
def tableWork (c : TableCmd) (s : State) : Work :=
  if needsContext c && !s.ctx.valid then turnedAway .fail else begun (pollTasks s.cfg c .pre 0)

/-- A port-configuration command accepted (46_port_config.md R235). -/
def fieldWork (op : PortOp) (d : FieldDesc) (port : BitVec 8) (v : Half) (s : State) : Work :=
  checkedWork (portStatus op (inRanges d.legal v) s) (describedTasks s.cfg d port v 0)

/-- What a command has to run once it is accepted. -/
def workOf (i : Instr) (s : State) : Work :=
  match i with
  | .lde .. | .rde _ | .ctxInit | .ctxRd _ => begun [.run i]
  | .smiRd dev reg => begun [.read dev.toNat reg, .answerLast]
  | .smiWr dev reg val => begun [.write dev.toNat reg val, .answer 0]
  | .smiFldWr dev reg off len val => begun [.read dev.toNat reg, .merge dev.toNat reg off len val, .answer 0]
  | .regRd port reg kind => begun [.read (mappedDevice s.cfg port kind) reg, .answerLast]
  | .regWr port reg kind val => begun [.write (mappedDevice s.cfg port kind) reg val, .answer 0]
  | .regFldWr port reg kind off len val =>
    begun [.read (mappedDevice s.cfg port kind) reg, .merge (mappedDevice s.cfg port kind) reg off len val, .answer 0]
  | .atuFlushAll => tableWork .atuFlushAll s
  | .atuFlushUnlocked => tableWork .atuFlushUnlocked s
  | .atuLoadPurge => tableWork .atuLoadPurge s
  | .atuGetNext => tableWork .atuGetNext s
  | .atuFlushAllDb => tableWork .atuFlushAllDb s
  | .atuFlushUnlockedDb => tableWork .atuFlushUnlockedDb s
  | .atuSvcViol => tableWork .atuSvcViol s
  | .pvtWrite => tableWork .pvtWrite s
  | .pvtRead => tableWork .pvtRead s
  | .portState port v => fieldWork .portState s.cfg.port.descState port v s
  | .portFrameMode port v => fieldWork .portFrameMode s.cfg.port.descFrameMode port v s
  | .portVlanMembers port v => fieldWork .portVlanMembers s.cfg.port.descVlanMembers port v s
  | .portHeaderMode port v => fieldWork .portHeaderMode s.cfg.port.descHeaderMode port v s
  | .pcsForceSpeed port v => fieldWork .pcsForceSpeed s.cfg.port.descForceSpeed port v s
  | .pcsForceDuplex port v => fieldWork .pcsForceDuplex s.cfg.port.descForceDuplex port v s
  | .pcsForceFc port v => fieldWork .pcsForceFc s.cfg.port.descForceFc port v s
  | .pcsForceLink port v => fieldWork .pcsForceLink s.cfg.port.descForceLink port v s
  | .portJumbo port size =>
    checkedWork (portStatus .portJumbo true s)
      (describedTasks s.cfg s.cfg.port.descJumbo port (jumboCode s.cfg (jumboMode size)) (jumboCode s.cfg (jumboMode size)))
  | .phyPower port v =>
    checkedWork (portStatus .phyPower (decide (v.toNat ≤ 1)) s)
      [.write (mapAddress s.cfg port.toNat .phy) s.cfg.phy.pageReg s.cfg.phy.powerPage,
       .enterPage (mapAddress s.cfg port.toNat .phy) v]

/-! ## Between two accesses -/

/-- What is left after a failure: the page restore if the page was entered, else the answer (46_port_config.md R249;
60_exceptions.md R272). -/
def afterFailure (todo : List Task) : List Task :=
  match todo.dropWhile (fun t => match t with | .restorePage _ => false | _ => true) with
  | [] => [.answer 0]
  | rest => rest

/-- A failure with status `st`: the first one stays the command's status (46_port_config.md R249). -/
def Work.failed (st : Status) (w : Work) : Work :=
  { w with status := if w.status = .ok then st else w.status, trans := none, todo := afterFailure w.todo }

/-- The state with the command at `w`. -/
def runningAt (w : Work) (s : State) : State := { s with seq := .running w }

/-- What the operation just made leads to, before the next access: a result is used, a poll is judged, a page is entered;
`w` is the command with that operation over. -/
def proceed (w : Work) (s : State) : State :=
  match w.todo with
  | .use u :: rest =>
    runningAt { w with todo := if endsReadBack s.cfg u w.last then rest.dropWhile (fun t => match t with
      | .read _ _ | .use _ => true
      | _ => false) else rest } (useResult u w.last s)
  | .test c ph k :: _ =>
    if w.last.getLsbD 15 then
      if waitExhausted s.cfg (k + 1) then runningAt (w.failed .timeout) s
      else { s with seq := .waiting c ph (k + 1) }
    else
      match ph with
      | .pre => runningAt { w with todo := commitTasks c s } s
      | .post => runningAt { w with todo := resultTasks s.cfg c } s
  | .enterPage dev v :: _ => runningAt { w with todo := pageTasks s.cfg dev v } s
  | _ => runningAt w s

/-- The Bus Transport operation a task makes. -/
def Task.busOp (cfg : Config) (last : Half) : Task → Option BusOp
  | .read dev reg => some (.read dev reg)
  | .write dev reg v => some (.write dev reg v)
  | .merge dev reg off len val => some (.write dev reg (mergeField last off len val))
  | .restorePage dev => some (.write dev cfg.phy.pageReg cfg.phy.pageDefault)
  | _ => none

/-- The device address of an operation. -/
def BusOp.device : BusOp → Nat
  | .read dev _ => dev
  | .write dev _ _ => dev

/-- T_CHECK (41_bus_transport.md R131): with no Bus Transaction in flight the next operation opens, or fails on its
address. -/
def openNext (cfg : Config) (w : Work) : Work :=
  match w.trans, w.todo with
  | none, t :: rest =>
    match t.busOp cfg w.last with
    | some op =>
      if addressLegal cfg op.device then { w with trans := some ⟨op, .busy cfg.bus.busyPollMax⟩, todo := rest }
      else Work.failed .invalidAddress { w with todo := rest }
    | none => w
  | _, _ => w

/-! ## The three kinds of step (00_scope.md R9) -/

/-- One access of the Bus Transaction `tr` of the command `w` (41_bus_transport.md R132 to R137): a countdown that runs
out fails the command with Timeout. -/
def makeAccess (tr : Transaction) (w : Work) (s : State) : State :=
  match tr.phase with
  | .busy 0 => runningAt (w.failed .timeout) s
  | .busy (n + 1) =>
    if (memReadCtrl s).1.getLsbD s.cfg.bus.busyBit then
      if n = 0 then runningAt (w.failed .timeout) (memReadCtrl s).2
      else runningAt { w with trans := some { tr with phase := .busy n } } (memReadCtrl s).2
    else runningAt { w with trans := some { tr with phase := .issue } } (memReadCtrl s).2
  | .issue =>
    match tr.op with
    | .read dev reg =>
      runningAt { w with trans := some { tr with phase := .rvalid s.cfg.bus.rvalidPollMax } }
        (memWriteCtrl (cwRead s.cfg dev reg) s)
    | .write dev reg v => proceed { w with trans := none } (memWriteCtrl (cwWrite s.cfg dev reg v) s)
  | .rvalid 0 => runningAt (w.failed .timeout) s
  | .rvalid (m + 1) =>
    if (memReadCtrl s).1.getLsbD s.cfg.bus.rvalidBit then
      runningAt { w with trans := some { tr with phase := .data } } (memReadCtrl s).2
    else if m = 0 then runningAt (w.failed .timeout) (memReadCtrl s).2
    else runningAt { w with trans := some { tr with phase := .rvalid m } } (memReadCtrl s).2
  | .data => proceed { w with trans := none, last := (memReadData s).1.extractLsb' 0 16 } (memReadData s).2

/-- The delivery of the response: the command's status, and its value if that is Ok (30_encoding.md R86). A command that
makes no access runs whole here. -/
def deliver (w : Work) (s : State) : Host.Outcome State Fault Refusal :=
  match w.todo with
  | .run i :: _ => exec i s
  | .answerLast :: _ => .next (respond w.status (if w.status = .ok then w.last else 0) s)
  | .answerE i :: _ => .next (respond w.status (if w.status = .ok then readE i s else 0) s)
  | .answer v :: _ => .next (respond w.status (if w.status = .ok then v else 0) s)
  | _ => .next (respond w.status 0 s)

/-- One access of the command `w`, or its delivery when none is left. An address that fails its check is followed by
the page restore if one is due, hence the two openings. -/
def continueWork (w : Work) (s : State) : Host.Outcome State Fault Refusal :=
  match (openNext s.cfg (openNext s.cfg w)).trans with
  | some tr => .next (makeAccess tr (openNext s.cfg (openNext s.cfg w)) s)
  | none => deliver (openNext s.cfg (openNext s.cfg w)) s

/-- The acceptance of a command word: what it has to run is latched; an illegal word has only its answer to run
(30_encoding.md R88). -/
def acceptWord (w : Command) (s : State) : State :=
  match decode w with
  | .ok i => runningAt (workOf i s) s
  | .error _ => runningAt (turnedAway .badParameter) s

/-- The sequencer's next step while the reset input is not asserted: the acceptance, one access, or the delivery; with
nothing presented the block stays in IDLE. -/
def advanceOne (s : State) : Host.Outcome State Fault Refusal :=
  match s.seq, s.commands with
  | .running w, _ => continueWork w s
  | .waiting c ph k, _ => continueWork (begun (pollTasks s.cfg c ph k)) s
  | .idle, [] => .next s
  | .idle, w :: rest => .next (acceptWord w (acceptCommand rest s))

end Sys2Proof.Machine
end

