-- ==== Sys2Proof/Machine/Step.lean ====
section
/-! DEFINITION. One step: the next poll of a waiting command, or the next command of the command port run to its
response or its first wait, or the reset input (00_scope.md R8, R9; 70_reset_and_hazards.md R295, R296; log 1, log 8);
and the finer step of R9, one access at a time. -/

namespace Sys2Proof.Machine

/-- A command word taken from the port: run, or answered as illegal (30_encoding.md R88). -/
def runWord (w : Command) (s : State) : Host.Outcome State Fault Refusal :=
  match decode w with
  | .ok i => exec i s
  | .error why => .next (answerIllegal why s)

/-- A step while the reset input is not asserted. A waiting command goes on, and no command is taken before it has
answered (R8); with nothing presented the block stays in IDLE (10_state.md R34). A command between two of its accesses
goes on by one. -/
def advance (s : State) : Host.Outcome State Fault Refusal :=
  match s.seq, s.commands with
  | .waiting c ph k, _ => .next (resume c ph k s)
  | .idle, [] => .next s
  | .idle, w :: rest => runWord w (acceptCommand rest s)
  | .running w, _ => continueWork w s

/-- A step under the reset input (R295, R296; log 8): due now, or on a block with nothing to do, it resets; else what
`go` does is cut where it lands. -/
def underReset (go : State → Host.Outcome State Fault Refusal) (s : State) : Host.Outcome State Fault Refusal :=
  match s.resetIn with
  | none => go s
  | some n =>
    if n = 0 ∨ isQuiet s = true then .next (resetBlock s)
    else
      match go s with
      | .next t => .next (resetWithin n s t)
      | .fault r => .fault r
      | .refused r => .refused r

/-- One step of the machine. -/
def step (s : State) : Host.Outcome State Fault Refusal := underReset advance s

/-- One step of the sequencer as R9 has it: one access, or the acceptance of a command, or the delivery of a
response. -/
def accessStep (s : State) : Host.Outcome State Fault Refusal := underReset advanceOne s

/-- `n` steps of the sequencer. -/
def accessSteps : Nat → State → Host.Outcome State Fault Refusal
  | 0, s => .next s
  | n + 1, s =>
    match accessStep s with
    | .next t => accessSteps n t
    | .fault r => .fault r
    | .refused r => .refused r

/-- `s` with a command word presented where `step` takes its next one (log 6). -/
def State.withFetchWord (s : State) (nbits w : Nat) : State :=
  presentCommand (BitVec.ofNat 64 (w % 2 ^ nbits)) s

end Sys2Proof.Machine
end

