-- ==== Sys2Proof/Safety.lean ====
section
/-! DEFINITION. What counts as a sound state and as a bus-only change, in the terms the claims use, and the host's
policy of 70_reset_and_hazards.md R299. -/

namespace Sys2Proof.Machine

/-- A response word the block may produce (30_encoding.md R86, R87): a status, and a value that is 0 unless it is Ok. -/
def SoundResponse (rw : Word) : Prop :=
  ∃ st v, rw = responseWord st v ∧ (st ≠ .ok → v = 0)

/-- A wait the sequencer may be in: at least one poll showed busy, the bound if any is not reached (44_atu_engine.md R186),
a second wait only where R185 has one, the context of an ATU command valid (R203), and no response yet. -/
def SoundWait (s : State) (c : TableCmd) (ph : WaitPhase) (k : Nat) : Prop :=
  1 ≤ k ∧ waitExhausted s.cfg k = false ∧
  (ph = .post → (tablePlan s.cfg c).readStyle = true ∨ s.cfg.postWaitAll = true) ∧
  (needsContext c = true → s.ctx.valid = true) ∧ s.response = none

/-- A command the sequencer may be running (10_state.md R25, R31): no response yet, a Bus Transaction that passed its
address check with reads left to make, a poll of a wait that R185 and R203 allow, and whole only the commands that make
no access. -/
structure SoundRun (s : State) (w : Work) : Prop where
  silent : s.response = none
  checked : ∀ tr, w.trans = some tr → addressLegal s.cfg tr.op.device = true
  counting : ∀ tr, w.trans = some tr → tr.phase ≠ .busy 0 ∧ tr.phase ≠ .rvalid 0
  polls : ∀ c ph k, .test c ph k ∈ w.todo →
    (ph = .post → (tablePlan s.cfg c).readStyle = true ∨ s.cfg.postWaitAll = true) ∧
    (needsContext c = true → s.ctx.valid = true)
  whole : ∀ i, .run i ∈ w.todo → workOf i s = begun [.run i]

/-- The cells an environment holds are in canonical form. -/
def cellsCanonical : Environment → Prop
  | .script _ _ => True
  | .env0 e => Memory.wf e.sw = true

/-- A word written to CTRL carries the busy and the read-valid bit as 0 (41_bus_transport.md R135). -/
def CleanControlWord (cfg : Config) (w : Word) : Prop :=
  w.getLsbD cfg.bus.busyBit = false ∧ w.getLsbD cfg.bus.rvalidBit = false

/-- The invariant of the machine. -/
structure Inv (s : State) : Prop where
  /-- 10_state.md R29 -/
  context_supported : s.ctx.valid = true → s.ctx.deviceId ∈ s.cfg.supportedIds
  /-- 30_encoding.md R86, R87 -/
  response_sound : ∀ rw, s.response = some rw → SoundResponse rw
  /-- 10_state.md R25, 44_atu_engine.md R186 -/
  wait_sound : ∀ c ph k, s.seq = .waiting c ph k → SoundWait s c ph k
  /-- 10_state.md R25, R31 -/
  run_sound : ∀ w, s.seq = .running w → SoundRun s w
  /-- 41_bus_transport.md R135 -/
  history_clean : ∀ w, .writeCtrl w ∈ s.history → CleanControlWord s.cfg w
  /-- 20_memory.md R70; log 9 -/
  cells : cellsCanonical s.env

/-- From `s` to `t` only the bus side has moved: accesses were appended to the history, and the environment answered. -/
structure BusOnly (s t : State) : Prop where
  cfg : t.cfg = s.cfg
  e : t.e = s.e
  ctx : t.ctx = s.ctx
  seq : t.seq = s.seq
  response : t.response = s.response
  commands : t.commands = s.commands
  resetIn : t.resetIn = s.resetIn
  resets : t.resets = s.resets
  history : s.history <+: t.history

/-- An answer of CTRL that shows busy clear and read-valid set, so that every poll ends at it
(41_bus_transport.md R132, R136). -/
def Ready (cfg : Config) (c : Word) : Prop :=
  c.getLsbD cfg.bus.busyBit = false ∧ c.getLsbD cfg.bus.rvalidBit = true

/-- The accesses of a `SmiRead` whose polls end at once: answers `c` and `v` of CTRL, `d` of DATA
(41_bus_transport.md R133). -/
def readTrace (cfg : Config) (dev : Nat) (reg : RegNum) (c v d : Word) : List BusEvent :=
  [.readCtrl c, .writeCtrl (cwRead cfg dev reg), .readCtrl v, .readData d]

/-- The accesses of a `SmiWrite` whose poll ends at once: answer `c` of CTRL (41_bus_transport.md R134). -/
def writeTrace (cfg : Config) (dev : Nat) (reg : RegNum) (x : Half) (c : Word) : List BusEvent :=
  [.readCtrl c, .writeCtrl (cwWrite cfg dev reg x)]

/-- The 16 bits of a word read from DATA that reach the block (41_bus_transport.md R137). -/
def datum (d : Word) : Half := d.extractLsb' 0 16

/-- `s` after the accesses `evs`, the answers `ctrl` and `data` being left in the script. -/
def busMoved (s : State) (ctrl data : List Word) (evs : List BusEvent) : State :=
  { s with env := .script ctrl data, history := s.history ++ evs }

/-- `s` once its command has answered `st` with value `v` after the accesses `evs`, the answers `ctrl` and `data` being
left in the script: nothing else has changed. -/
def answered (s : State) (st : Status) (v : Half) (ctrl data : List Word) (evs : List BusEvent) : State :=
  { s with env := .script ctrl data, history := s.history ++ evs, response := some (responseWord st v), seq := .idle }

/-- What a command that is not read-style needs of the environment after its operation word, and the accesses it
makes: one more poll of the operation register if POST_WAIT_ALL is set (44_atu_engine.md R185). -/
def whenPostWait {α : Type} (cfg : Config) (xs : List α) : List α := if cfg.postWaitAll then xs else []

/-- The eight commands that are R235 and nothing more, each with its name for pcfgLegal and its descriptor
(46_port_config.md R237 to R245). -/
def fieldForms (cfg : Config) (port : BitVec 8) (v : Half) : List (Instr × PortOp × FieldDesc) :=
  [(.portState port v, .portState, cfg.port.descState),
   (.portFrameMode port v, .portFrameMode, cfg.port.descFrameMode),
   (.portVlanMembers port v, .portVlanMembers, cfg.port.descVlanMembers),
   (.portHeaderMode port v, .portHeaderMode, cfg.port.descHeaderMode),
   (.pcsForceSpeed port v, .pcsForceSpeed, cfg.port.descForceSpeed),
   (.pcsForceDuplex port v, .pcsForceDuplex, cfg.port.descForceDuplex),
   (.pcsForceFc port v, .pcsForceFc, cfg.port.descForceFc),
   (.pcsForceLink port v, .pcsForceLink, cfg.port.descForceLink)]

/-- The commands that read a value field of the Device Context (40_operand_and_context.md R114). -/
def readsContext : Instr → Bool
  | .lde _ _ | .rde _ | .ctxInit | .smiRd _ _ | .smiWr _ _ _ | .smiFldWr _ _ _ _ _ | .regRd _ _ _ | .regWr _ _ _ _
  | .regFldWr _ _ _ _ _ _ | .pvtWrite | .pvtRead => false
  | .ctxRd n => decide (n.toNat ≤ 5)
  | .atuFlushAll | .atuFlushUnlocked | .atuLoadPurge | .atuGetNext | .atuFlushAllDb | .atuFlushUnlockedDb
  | .atuSvcViol => true
  | .portState _ _ | .portFrameMode _ _ | .portVlanMembers _ _ | .portHeaderMode _ _ | .pcsForceSpeed _ _
  | .pcsForceDuplex _ _ | .pcsForceFc _ _ | .pcsForceLink _ _ | .portJumbo _ _ | .phyPower _ _ => true

/-- The operand registers a command may write (10_state.md R21 to R23, 44_atu_engine.md R190, R197, R200, 45_pvt_engine.md
R222). -/
def writtenRegs (cfg : Config) : Instr → List (BitVec 4)
  | .lde i _ => [i]
  | .atuGetNext => [0, 1, 2, 4, 5, 6] ++ (if cfg.atu.trunkBit.isSome then [7] else [])
  | .atuSvcViol => [11, 3, 5, 0, 1, 2]
  | .pvtRead => [13]
  | .rde _ | .ctxInit | .ctxRd _ | .smiRd _ _ | .smiWr _ _ _ | .smiFldWr _ _ _ _ _ | .regRd _ _ _ | .regWr _ _ _ _
  | .regFldWr _ _ _ _ _ _ | .atuFlushAll | .atuFlushUnlocked | .atuLoadPurge | .atuFlushAllDb | .atuFlushUnlockedDb
  | .pvtWrite | .portState _ _ | .portFrameMode _ _ | .portVlanMembers _ _ | .portHeaderMode _ _ | .pcsForceSpeed _ _
  | .pcsForceDuplex _ _ | .pcsForceFc _ _ | .pcsForceLink _ _ | .portJumbo _ _ | .phyPower _ _ => []

/-- The statuses a legal command may answer (60_exceptions.md R273); a table command answers InvalidAddress only under
a configuration that puts its table at 32 or above. -/
def possibleStatuses (cfg : Config) : Instr → List Status
  | .lde _ _ | .rde _ => [.ok]
  | .ctxInit => [.ok, .notSupported]
  | .ctxRd n => if n.toNat ≤ 5 then [.ok, .fail] else [.ok]
  | .smiRd _ _ | .smiWr _ _ _ | .smiFldWr _ _ _ _ _ | .regRd _ _ _ | .regWr _ _ _ _ | .regFldWr _ _ _ _ _ _ =>
    [.ok, .invalidAddress, .timeout]
  | .atuFlushAll | .atuFlushUnlocked | .atuLoadPurge | .atuGetNext | .atuFlushAllDb | .atuFlushUnlockedDb
  | .atuSvcViol => [.ok, .fail, .timeout] ++ (if cfg.map.globalAddr < 32 then [] else [.invalidAddress])
  | .pvtWrite | .pvtRead => [.ok, .timeout] ++ (if cfg.map.global2Addr < 32 then [] else [.invalidAddress])
  | .portState _ _ | .portFrameMode _ _ | .portVlanMembers _ _ | .portHeaderMode _ _ | .pcsForceSpeed _ _
  | .pcsForceDuplex _ _ | .pcsForceFc _ _ | .pcsForceLink _ _ | .phyPower _ _ =>
    [.ok, .fail, .invalidAddress, .timeout, .badParameter, .notSupported]
  | .portJumbo _ _ => [.ok, .fail, .invalidAddress, .timeout, .notSupported]

/-- The most accesses a `SmiRead` makes (70_reset_and_hazards.md R312). -/
def readBound (cfg : Config) : Nat := cfg.bus.busyPollMax + 1 + cfg.bus.rvalidPollMax + 1

/-- The most accesses a `SmiWrite` makes (70_reset_and_hazards.md R312). -/
def writeBound (cfg : Config) : Nat := cfg.bus.busyPollMax + 1

/-- The most accesses a command makes; the nine table commands have no bound (70_reset_and_hazards.md R312). -/
def accessBound (cfg : Config) : Instr → Option Nat
  | .lde _ _ | .rde _ | .ctxInit | .ctxRd _ => some 0
  | .smiRd _ _ | .regRd _ _ _ => some (readBound cfg)
  | .smiWr _ _ _ | .regWr _ _ _ _ => some (writeBound cfg)
  | .smiFldWr _ _ _ _ _ | .regFldWr _ _ _ _ _ _ | .portState _ _ | .portFrameMode _ _ | .portVlanMembers _ _
  | .portHeaderMode _ _ | .pcsForceSpeed _ _ | .pcsForceDuplex _ _ | .pcsForceFc _ _ | .pcsForceLink _ _
  | .portJumbo _ _ => some (readBound cfg + writeBound cfg)
  | .phyPower _ _ => some (2 * writeBound cfg + cfg.phy.powerBits.length * (readBound cfg + writeBound cfg))
  | .atuFlushAll | .atuFlushUnlocked | .atuLoadPurge | .atuGetNext | .atuFlushAllDb | .atuFlushUnlockedDb
  | .atuSvcViol | .pvtWrite | .pvtRead => none

/-- Two accesses alike in all the block uses: the same word written, or reads of the same register. -/
def SameAccess : BusEvent → BusEvent → Prop
  | .readCtrl _, .readCtrl _ => True
  | .writeCtrl w, .writeCtrl w' => w = w'
  | .readData _, .readData _ => True
  | _, _ => False

/-- Two states that differ only in bits the block ignores (41_bus_transport.md R132, R136, R137): scripted answers of CTRL
that agree in the busy and read-valid bits, scripted answers of DATA that agree in bits 15:0, and the record of such
answers. -/
structure SameSeen (s s' : State) : Prop where
  cfg : s'.cfg = s.cfg
  e : s'.e = s.e
  ctx : s'.ctx = s.ctx
  seq : s'.seq = s.seq
  response : s'.response = s.response
  draws : s'.draws = s.draws
  commands : s'.commands = s.commands
  resetIn : s'.resetIn = s.resetIn
  resets : s'.resets = s.resets
  history : List.Forall₂ SameAccess s.history s'.history
  env : ∃ cs cs' ds ds', s.env = .script cs ds ∧ s'.env = .script cs' ds' ∧
    List.Forall₂ (fun a b : Word => a.getLsbD s.cfg.bus.busyBit = b.getLsbD s.cfg.bus.busyBit ∧
      a.getLsbD s.cfg.bus.rvalidBit = b.getLsbD s.cfg.bus.rvalidBit) cs cs' ∧
    List.Forall₂ (fun a b : Word => datum a = datum b) ds ds'

/-- The host goes on after a response only if its status is Ok (70_reset_and_hazards.md R299). -/
def hostContinues (s : State) : Bool :=
  match s.response with
  | some rw => decide (responseCode rw = statusCode .ok)
  | none => false

/-! ## Which words are legal -/

/-- The format of each assigned opcode (30_encoding.md R82, R83). -/
def opcodeFormat (op : BitVec 8) : Option CmdFormat :=
  match op.toNat with
  | 0x01 => some fmtE
  | 0x02 | 0x04 => some fmtE0
  | 0x03 | 0x31 | 0x32 | 0x33 | 0x34 | 0x35 | 0x36 | 0x37 | 0x43 | 0x44 => some fmtN
  | 0x10 => some fmtD0
  | 0x11 => some fmtD
  | 0x12 => some fmtDF
  | 0x20 => some fmtM0
  | 0x21 => some fmtM
  | 0x22 => some fmtMF
  | 0x50 | 0x51 | 0x52 | 0x53 | 0x54 | 0x55 | 0x56 | 0x57 | 0x58 | 0x59 => some fmtP
  | _ => none

/-- A field that a format does not use is nonzero (30_encoding.md R82). -/
def UnusedNonzero (f : CmdFormat) (w : Command) : Prop :=
  (f.a = false ∧ fieldA w ≠ 0) ∨ (f.k = false ∧ fieldK w ≠ 0) ∨ (f.r = false ∧ fieldR w ≠ 0) ∨
  (f.len = false ∧ fieldLen w ≠ 0) ∨ (f.off = false ∧ fieldOff w ≠ 0) ∨ (f.idx = false ∧ fieldIdx w ≠ 0) ∨
  (f.v = false ∧ fieldV w ≠ 0)

/-- An illegal command word, as 30_encoding.md R88 lists the causes: the opcode, Z1, Z2, Z3, an unused field (V of the
four reading commands among them), CTX_RD's index. -/
def IllegalWord (w : Command) : Prop :=
  opcodeFormat (fieldOp w) = none ∨
  w.extractLsb' 37 3 ≠ 0#3 ∨ w.extractLsb' 28 4 ≠ 0#4 ∨ w.extractLsb' 20 4 ≠ 0#4 ∨
  (∃ f, opcodeFormat (fieldOp w) = some f ∧ UnusedNonzero f w) ∨
  (fieldOp w = 0x04 ∧ 6 < (fieldIdx w).toNat)

/-- The match and mask of each row of spec/opcode_table.json, in its order (30_encoding.md R83). -/
def opcodeRows : List (Command × Command) :=
  [(0x0100000000000000, 0xFFFFFFFFFFF00000), (0x0200000000000000, 0xFFFFFFFFFFF0FFFF),
   (0x0300000000000000, 0xFFFFFFFFFFFFFFFF), (0x0400000000000000, 0xFFFFFFFFFFF0FFFF),
   (0x1000000000000000, 0xFF00E0FFFFFFFFFF), (0x1100000000000000, 0xFF00E0FFFFFF0000),
   (0x1200000000000000, 0xFF00E0E0F0FF0000), (0x2000000000000000, 0xFF0000FFFFFFFFFF),
   (0x2100000000000000, 0xFF0000FFFFFF0000), (0x2200000000000000, 0xFF0000E0F0FF0000)] ++
  [(0x3100000000000000, 0xFFFFFFFFFFFFFFFF), (0x3200000000000000, 0xFFFFFFFFFFFFFFFF),
   (0x3300000000000000, 0xFFFFFFFFFFFFFFFF), (0x3400000000000000, 0xFFFFFFFFFFFFFFFF),
   (0x3500000000000000, 0xFFFFFFFFFFFFFFFF), (0x3600000000000000, 0xFFFFFFFFFFFFFFFF),
   (0x3700000000000000, 0xFFFFFFFFFFFFFFFF), (0x4300000000000000, 0xFFFFFFFFFFFFFFFF),
   (0x4400000000000000, 0xFFFFFFFFFFFFFFFF)] ++
  [(0x5000000000000000, 0xFF00FFFFFFFF0000), (0x5100000000000000, 0xFF00FFFFFFFF0000),
   (0x5200000000000000, 0xFF00FFFFFFFF0000), (0x5300000000000000, 0xFF00FFFFFFFF0000),
   (0x5400000000000000, 0xFF00FFFFFFFF0000), (0x5500000000000000, 0xFF00FFFFFFFF0000),
   (0x5600000000000000, 0xFF00FFFFFFFF0000), (0x5700000000000000, 0xFF00FFFFFFFF0000),
   (0x5800000000000000, 0xFF00FFFFFFFF0000), (0x5900000000000000, 0xFF00FFFFFFFF0000)]

/-! ## Runs whose polls end at once -/

/-- The answers one `SmiRead` takes when both its polls end at the first read (41_bus_transport.md R133). -/
structure ReadAnswer where
  busyPoll : Word
  validPoll : Word
  data : Word
deriving DecidableEq, Repr

/-- The answers end both polls. -/
def ReadAnswer.Prompt (cfg : Config) (r : ReadAnswer) : Prop := Ready cfg r.busyPoll ∧ Ready cfg r.validPoll

/-- What it takes of the script for CTRL. -/
def ReadAnswer.ctrl (r : ReadAnswer) : List Word := [r.busyPoll, r.validPoll]

/-- The datum read. -/
def ReadAnswer.value (r : ReadAnswer) : Half := datum r.data

/-- The accesses of the `SmiRead`. -/
def ReadAnswer.trace (cfg : Config) (dev : Nat) (reg : RegNum) (r : ReadAnswer) : List BusEvent :=
  readTrace cfg dev reg r.busyPoll r.validPoll r.data

/-- The answers end both polls, and the datum shows a table's busy bit, bit 15, as given (44_atu_engine.md R186). -/
def ReadAnswer.Shows (cfg : Config) (busy : Bool) (r : ReadAnswer) : Prop :=
  r.Prompt cfg ∧ r.value.getLsbD 15 = busy

/-- The entry ATU_GET_NEXT stores: a data word and three MAC words (44_atu_engine.md R190, R191). -/
def storedEntry (s : State) (d m0 m1 m2 : Half) : State :=
  writeE 2 m2 (writeE 1 m1 (writeE 0 m0 (unpackAtuData d s)))

/-- What ATU_SVC_VIOL stores: the kind, the database number, the entry state, the MAC (44_atu_engine.md R200). -/
def storedViolation (s : State) (kind f d m0 m1 m2 : Half) : State :=
  writeE 2 m2 (writeE 1 m1 (writeE 0 m0 (writeE 5 (violState s.cfg d) (writeE 3 (f &&& 0x0FFF) (writeE 11 kind s)))))

/-- The accesses of PHY_POWER's field writes, each row of POWER_BITS with the answers its read and its write take
(46_port_config.md R249). -/
def powerTrace (cfg : Config) (dev : Nat) (v : Half) (rows : List (PowerBit × ReadAnswer × Word)) : List BusEvent :=
  rows.flatMap fun (b, r, c) =>
    r.trace cfg dev (regNumber cfg b.reg) ++
    writeTrace cfg dev (regNumber cfg b.reg)
      (mergeField r.value b.off b.len (if v = 0 then b.down else b.up)) c

/-- The accesses of a commit's writes, each with the answer its poll takes (44_atu_engine.md R187). -/
def commitTrace (cfg : Config) (dev : Nat) (rows : List ((RegNum × Half) × Word)) : List BusEvent :=
  rows.flatMap fun (w, c) => writeTrace cfg dev w.1 w.2 c

/-- The accesses of a table command's result reads, each with its answers (44_atu_engine.md R197, R200). -/
def resultTrace (cfg : Config) (dev : Nat) (rows : List ((RegNum × ResultUse) × ReadAnswer)) : List BusEvent :=
  rows.flatMap fun (u, r) => r.trace cfg dev u.1

/-- What the result reads made so far have stored (44_atu_engine.md R202). -/
def resultsStored (s : State) (rows : List ((RegNum × ResultUse) × ReadAnswer)) : State :=
  rows.foldl (fun t row => useResult row.1.2 row.2.value t) s

/-! ## Transport operations that time out -/

/-- The answers `ctrl` outlast a busy poll, and `evs` are the accesses: a `SmiWrite` that times out (41_bus_transport.md
R132, R134). -/
def WriteTimesOut (cfg : Config) (ctrl : List Word) (evs : List BusEvent) : Prop :=
  (∀ x ∈ ctrl, x.getLsbD cfg.bus.busyBit = true) ∧ ctrl.length = cfg.bus.busyPollMax ∧ evs = ctrl.map BusEvent.readCtrl

/-- The answers `ctrl` make a `SmiRead` time out in its first or its second countdown, and `evs` are the accesses
(41_bus_transport.md R132, R133, R136). -/
def ReadTimesOut (cfg : Config) (dev : Nat) (reg : RegNum) (ctrl : List Word) (evs : List BusEvent) : Prop :=
  WriteTimesOut cfg ctrl evs ∨
  ∃ busy c late, ctrl = busy ++ c :: late ∧
    (∀ x ∈ busy, x.getLsbD cfg.bus.busyBit = true) ∧ busy.length < cfg.bus.busyPollMax ∧
    c.getLsbD cfg.bus.busyBit = false ∧
    (∀ x ∈ late, x.getLsbD cfg.bus.rvalidBit = false) ∧ late.length = cfg.bus.rvalidPollMax ∧
    evs = busy.map BusEvent.readCtrl ++ [.readCtrl c, .writeCtrl (cwRead cfg dev reg)] ++ late.map BusEvent.readCtrl

/-- The answers make a field write time out in its read half, or, its read made, in its write half
(42_field_codec.md R151). -/
def FieldWriteTimesOut (cfg : Config) (dev : Nat) (reg : RegNum) (ctrl data : List Word) (evs : List BusEvent) : Prop :=
  (data = [] ∧ ReadTimesOut cfg dev reg ctrl evs) ∨
  ∃ r ctrl' evs', ReadAnswer.Prompt cfg r ∧ WriteTimesOut cfg ctrl' evs' ∧
    ctrl = r.ctrl ++ ctrl' ∧ data = [r.data] ∧ evs = r.trace cfg dev reg ++ evs'

/-! ## Commands by shape -/

/-- The device address of the six commands that are one register access (41_bus_transport.md R140, R141; 42_field_codec.md
R154; 43_address_mapper.md R170 to R172). -/
def directDevice (cfg : Config) : Instr → Option Nat
  | .smiRd dev _ | .smiWr dev _ _ | .smiFldWr dev _ _ _ _ => some dev.toNat
  | .regRd port _ kind | .regWr port _ kind _ | .regFldWr port _ kind _ _ _ => some (mappedDevice cfg port kind)
  | _ => none

/-- What a command that is one register access, or one field write, does with its register. -/
inductive RegisterUse where
  | read (dev : Nat) (reg : RegNum)
  | write (dev : Nat) (reg : RegNum)
  | field (dev : Nat) (reg : RegNum)
deriving DecidableEq, Repr

/-- The device address. -/
def RegisterUse.dev : RegisterUse → Nat
  | .read dev _ => dev
  | .write dev _ => dev
  | .field dev _ => dev

/-- The answers make that register access time out. -/
def RegisterUse.TimesOut (cfg : Config) (ctrl data : List Word) (evs : List BusEvent) : RegisterUse → Prop
  | .read dev reg => data = [] ∧ ReadTimesOut cfg dev reg ctrl evs
  | .write _ _ => data = [] ∧ WriteTimesOut cfg ctrl evs
  | .field dev reg => FieldWriteTimesOut cfg dev reg ctrl data evs

/-- The field write of a port-configuration command whose checks pass (46_port_config.md R235). -/
def describedUse (op : PortOp) (legal : Bool) (d : FieldDesc) (port : BitVec 8) (s : State) : Option RegisterUse :=
  if portStatus op legal s = .ok then some (.field (mapAddress s.cfg port.toNat d.kind) (regNumber s.cfg d.reg)) else none

/-- The fifteen commands that are one register access or one field write, the nine of the port family if their checks
pass (41_bus_transport.md R140, R141; 42_field_codec.md R154; 43_address_mapper.md R170 to R172; 46_port_config.md
R235). -/
def registerUse (s : State) : Instr → Option RegisterUse
  | .smiRd dev reg => some (.read dev.toNat reg)
  | .smiWr dev reg _ => some (.write dev.toNat reg)
  | .smiFldWr dev reg _ _ _ => some (.field dev.toNat reg)
  | .regRd port reg kind => some (.read (mappedDevice s.cfg port kind) reg)
  | .regWr port reg kind _ => some (.write (mappedDevice s.cfg port kind) reg)
  | .regFldWr port reg kind _ _ _ => some (.field (mappedDevice s.cfg port kind) reg)
  | .portState port v => describedUse .portState (inRanges s.cfg.port.descState.legal v) s.cfg.port.descState port s
  | .portFrameMode port v =>
    describedUse .portFrameMode (inRanges s.cfg.port.descFrameMode.legal v) s.cfg.port.descFrameMode port s
  | .portVlanMembers port v =>
    describedUse .portVlanMembers (inRanges s.cfg.port.descVlanMembers.legal v) s.cfg.port.descVlanMembers port s
  | .portHeaderMode port v =>
    describedUse .portHeaderMode (inRanges s.cfg.port.descHeaderMode.legal v) s.cfg.port.descHeaderMode port s
  | .pcsForceSpeed port v =>
    describedUse .pcsForceSpeed (inRanges s.cfg.port.descForceSpeed.legal v) s.cfg.port.descForceSpeed port s
  | .pcsForceDuplex port v =>
    describedUse .pcsForceDuplex (inRanges s.cfg.port.descForceDuplex.legal v) s.cfg.port.descForceDuplex port s
  | .pcsForceFc port v =>
    describedUse .pcsForceFc (inRanges s.cfg.port.descForceFc.legal v) s.cfg.port.descForceFc port s
  | .pcsForceLink port v =>
    describedUse .pcsForceLink (inRanges s.cfg.port.descForceLink.legal v) s.cfg.port.descForceLink port s
  | .portJumbo port _ => describedUse .portJumbo true s.cfg.port.descJumbo port s
  | _ => none

/-- The ten port-configuration commands, each with its name for pcfgLegal, whether its argument is legal, and the device
address it reaches (46_port_config.md R235 to R250). -/
def portForms (cfg : Config) (port : BitVec 8) (v : Half) : List (Instr × PortOp × Bool × Nat) :=
  (fieldForms cfg port v).map (fun f => (f.1, f.2.1, inRanges f.2.2.legal v, mapAddress cfg port.toNat f.2.2.kind)) ++
  [(.portJumbo port v, .portJumbo, true, mapAddress cfg port.toNat cfg.port.descJumbo.kind),
   (.phyPower port v, .phyPower, decide (v.toNat ≤ 1), port.toNat)]

/-- The cell a control word written to ENV0 writes, none for a read command (20_memory.md R70). -/
def env0WrittenCell (w : Word) : Option Nat :=
  if w.getLsbD 26 then none else some (cellNumber (env0Dev w) (env0Reg w))

end Sys2Proof.Machine
end

