-- ==== Sys2Proof/Certificates/Slice0/Obligations.lean ====
section
/-! DEFINITION. The statements about SMI-RAC, in the order of spec/: encoding, the step and reset, the Bus Transport, the
Field Codec, the Address Mapper, the context, the table engine, the port configuration, the whole machine. -/

open Sys2Proof Sys2Proof.Machine

/-! ## Encoding (30_encoding.md) -/

/-- Every well-formed command survives encoding, with every operand at every value (R81 to R83). -/
def Obligations.DecodeEncodeRoundTrip : Prop :=
  ∀ i : Instr, i.wf = true → decode (encode i) = .ok i

/-- A word that decodes is the encoding of what it decodes to, so each command has one word (R81 to R83). -/
def Obligations.EncodeDecodeRoundTrip : Prop :=
  ∀ (w : Command) (i : Instr), decode w = .ok i → encode i = w ∧ i.wf = true

/-- The encoding examples of R96. -/
def Obligations.SpecExampleWordsDecode : Prop :=
  decode 0x220244020C000001 = .ok (.regFldWr 2 0x04 2 12 2 1) ∧
  decode 0x1012040000000000 = .ok (.smiRd 0x12 0x04) ∧
  decode 0x010000000005000F = .ok (.lde 5 0x000F) ∧
  decode 0x3400000000000000 = .ok .atuGetNext ∧
  decode 0x58030000000005F3 = .ok (.portJumbo 3 1523)

/-- A word decodes exactly when it matches a row of the opcode table and, for CTX_RD, its index is at most 6 (R83). -/
def Obligations.LegalWordsMatchTheOpcodeTable : Prop :=
  ∀ w : Command, (∃ i, decode w = .ok i) ↔
    (∃ row ∈ opcodeRows, w &&& row.2 = row.1) ∧ (fieldOp w = 0x04 → (fieldIdx w).toNat ≤ 6)

/-- The illegal words of R88, each cause listed, are answered BadParameter with value 0, no access, E and CTX as they
were; every other word is a command. -/
def Obligations.IllegalWordAnswersBadParameter : Prop :=
  ∀ w : Command,
    (IllegalWord w → ∀ (s : State) (rest : List Command),
      s.seq = .idle → s.resetIn = none → s.commands = w :: rest →
      step s = .next { s with commands := rest, response := some 0x00040000 }) ∧
    (¬ IllegalWord w → ∃ i, decode w = .ok i ∧ i.wf = true)

/-! ## The step and reset (00_scope.md, 10_state.md, 70_reset_and_hazards.md) -/

/-- An idle block takes the next command word and runs the command it decodes to; with the reset input due after more
accesses, the same step, cut where the reset lands. That one step runs the whole command is the model's choice (log 1), and
so are the list the word is taken from (log 6), that the last response is gone once it is taken (log 7: no rule says when a
response leaves the port), and the placing of the reset (log 8). -/
def Obligations.StepRunsDecodedCommand : Prop :=
  ∀ (s : State) (w : Command) (rest : List Command) (i : Instr),
    s.seq = .idle → s.commands = w :: rest → decode w = .ok i →
    (s.resetIn = none → step s = exec i { s with commands := rest, response := none }) ∧
    (∀ n t, s.resetIn = some (n + 1) → exec i { s with commands := rest, response := none } = .next t →
      step s = .next (resetWithin (n + 1) s t))

/-- A waiting command keeps the command port closed: its next step answers it or leaves it waiting, takes no command, and
answers nothing else (00_scope.md R8, 70_reset_and_hazards.md R309). That a step ends at a busy poll, the list of presented
words and the response port's keeping its word are the model's choices (log 1, log 6, log 7). -/
def Obligations.WaitingBlockTakesNoCommand : Prop :=
  ∀ (s : State) (c : TableCmd) (ph : WaitPhase) (k : Nat), s.seq = .waiting c ph k → s.resetIn = none →
    ∃ t, step s = .next t ∧ t.commands = s.commands ∧
      ((t.seq = .idle ∧ ∃ rw, t.response = some rw) ∨
       (∃ ph' k', t.seq = .waiting c ph' k' ∧ t.response = s.response))

/-- What reset leaves: IDLE with nothing latched, the context invalid, no response, no access made; and an idle block with
no command presented stays as it is, waiting for the first command (10_state.md R34). -/
def Obligations.ResetLeavesAnIdleBlockThatWaits : Prop :=
  State.reset.seq = .idle ∧ State.reset.ctx.valid = false ∧ State.reset.response = none ∧
  State.reset.history = [] ∧ State.reset.commands = [] ∧
  ∀ s : State, s.seq = .idle → s.commands = [] → s.resetIn = none → step s = .next s

/-- The reset input asserted at a step's start, or on a block with nothing to do, resets at once: it makes no access and
leaves the environment alone, and it ends any wait (R295, R296; log 8). -/
def Obligations.ResetInputResetsAtOnce : Prop :=
  ∀ (s : State) (n : Nat), s.resetIn = some n → n = 0 ∨ (s.seq = .idle ∧ s.commands = []) →
    ∃ t, step s = .next t ∧ t.seq = .idle ∧ t.ctx.valid = false ∧ t.response = none ∧ t.resetIn = none ∧
      t.history = s.history ∧ t.env = s.env ∧ t.commands = s.commands ∧ t.cfg = s.cfg

/-- A reset that lands inside a step abandons the command at that access: no response, and exactly the accesses made
before it stay made; before that the step is as it would be (R296; log 8). -/
def Obligations.ResetMidCommandKeepsAccessesMade : Prop :=
  ∀ (s u : State) (n : Nat), s.resetIn = some (n + 1) → ¬ (s.seq = .idle ∧ s.commands = []) → advance s = .next u →
    (u.history.length < s.history.length + (n + 1) →
      step s = .next { u with resetIn := some (s.history.length + (n + 1) - u.history.length) }) ∧
    (s.history.length + (n + 1) ≤ u.history.length →
      ∃ t, step s = .next t ∧ t.seq = .idle ∧ t.ctx.valid = false ∧ t.response = none ∧ t.resetIn = none ∧
        t.history = s.history ++ (u.history.drop s.history.length).take (n + 1) ∧
        t.commands = u.commands ∧ t.cfg = s.cfg)

/-- R9: a step of the sequencer is one access, or the acceptance of a command word, or the delivery of a response, or,
with nothing presented, none of them. That an acceptance empties the response port is the model's choice (log 7), and so
are the list of presented words (log 6) and that what leads to no access belongs to the step beside it (log 1). -/
def Obligations.AccessStepIsOneOfThree : Prop :=
  ∀ s t : State, s.cfg.WF → Inv s → s.resetIn = none → accessStep s = .next t →
    (s.seq ≠ .idle ∧ (∃ ev, t.history = s.history ++ [ev]) ∧ t.commands = s.commands ∧ t.response = none ∧
      t.seq ≠ .idle) ∨
    (s.seq = .idle ∧ (∃ w, s.commands = w :: t.commands) ∧ t.history = s.history ∧ t.response = none ∧ t.seq ≠ .idle ∧
      t.e = s.e ∧ t.ctx = s.ctx ∧ t.env = s.env) ∨
    (s.seq ≠ .idle ∧ t.history = s.history ∧ t.commands = s.commands ∧ (∃ rw, t.response = some rw) ∧ t.seq = .idle ∧
      t.env = s.env) ∨
    (s.seq = .idle ∧ s.commands = [] ∧ t = s)

/-- The step of the machine, whole commands and whole polls, is what steps of R9's make: from an idle or a waiting block
some number of them, at least one, leads to the same state, the reset input included (R9, R60, R296; log 1, log 8). -/
def Obligations.AccessStepsMakeTheStep : Prop :=
  ∀ s t : State, (∀ w, s.seq ≠ .running w) → step s = .next t → ∃ n, accessSteps (n + 1) s = .next t

/-! ## Bus Transport (41_bus_transport.md) -/

/-- R132: the busy poll reads CTRL at least once and at most BUSY_POLL_MAX times, ends at the first answer with the busy
bit clear, and times out exactly when that many answers all show it set. -/
def Obligations.BusyPollBound : Prop :=
  ∀ s : State, 1 ≤ s.cfg.bus.busyPollMax →
    ∃ reads : List Word,
      (pollBusy s).2.history = s.history ++ reads.map BusEvent.readCtrl ∧
      1 ≤ reads.length ∧ reads.length ≤ s.cfg.bus.busyPollMax ∧
      (((pollBusy s).1 = .ok () ∧ ∃ before last, reads = before ++ [last] ∧
          (∀ x ∈ before, x.getLsbD s.cfg.bus.busyBit = true) ∧ last.getLsbD s.cfg.bus.busyBit = false) ∨
       ((pollBusy s).1 = .error .timeout ∧ reads.length = s.cfg.bus.busyPollMax ∧
          ∀ x ∈ reads, x.getLsbD s.cfg.bus.busyBit = true))

/-- R136: the read-valid poll, the same with the read-valid bit, up to RVALID_POLL_MAX reads; the busy bit plays no
part. -/
def Obligations.ReadValidPollBound : Prop :=
  ∀ s : State, s.cfg.bus.busyPollMax < s.cfg.bus.rvalidPollMax →
    ∃ reads : List Word,
      (pollValid s).2.history = s.history ++ reads.map BusEvent.readCtrl ∧
      1 ≤ reads.length ∧ reads.length ≤ s.cfg.bus.rvalidPollMax ∧
      (((pollValid s).1 = .ok () ∧ ∃ before last, reads = before ++ [last] ∧
          (∀ x ∈ before, x.getLsbD s.cfg.bus.rvalidBit = false) ∧ last.getLsbD s.cfg.bus.rvalidBit = true) ∨
       ((pollValid s).1 = .error .timeout ∧ reads.length = s.cfg.bus.rvalidPollMax ∧
          ∀ x ∈ reads, x.getLsbD s.cfg.bus.rvalidBit = false))

/-- R131: a transport operation on a device address of 32 or more fails with InvalidAddress and touches nothing; on a
smaller one that failure never comes. -/
def Obligations.AddressCheckTouchesNothing : Prop :=
  ∀ (s : State) (dev : Nat) (reg : RegNum) (v : Half), s.cfg.bus.WF →
    (32 ≤ dev → smiRead dev reg s = (.error .invalidAddress, s) ∧ smiWrite dev reg v s = (.error .invalidAddress, s)) ∧
    (dev < 32 → (smiRead dev reg s).1 ≠ .error .invalidAddress ∧ (smiWrite dev reg v s).1 ≠ .error .invalidAddress)

/-- R135: a control word carries the data, device and register fields where the configuration puts them, its busy and
read-valid bits are 0, and the CFG0 words of the spec's examples are right. -/
def Obligations.ControlWordCarriesItsFields : Prop :=
  (∀ (cfg : Config) (dev : Nat) (reg : RegNum) (v : Half), cfg.bus.WF → dev < 32 →
    (cwWrite cfg dev reg v).extractLsb' 0 16 = v ∧
    (cwRead cfg dev reg).extractLsb' 0 16 = 0#16 ∧
    (∀ w, w = cwWrite cfg dev reg v ∨ w = cwRead cfg dev reg →
      w.extractLsb' cfg.bus.devShift 5 = BitVec.ofNat 5 dev ∧ w.extractLsb' cfg.bus.regShift 5 = reg ∧
      w.getLsbD cfg.bus.busyBit = false ∧ w.getLsbD cfg.bus.rvalidBit = false)) ∧
  cwRead cfg0 0x12 0x04 = 0x04920000 ∧ cwWrite cfg0 0x1B 0x0B 0xA5A5 = 0x017BA5A5

/-- SMI_RD answers the datum (R133, R140): after any number of busy answers below the bound and of late answers below the
second bound, with exactly these accesses, and changes nothing else. -/
def Obligations.SmiRdAnswersTheDatum : Prop :=
  ∀ (s : State) (dev : BitVec 8) (reg : RegNum) (busy late : List Word) (c v d : Word) (cs ds : List Word),
    s.cfg.bus.WF → dev.toNat < 32 →
    (∀ x ∈ busy, x.getLsbD s.cfg.bus.busyBit = true) → busy.length < s.cfg.bus.busyPollMax →
    c.getLsbD s.cfg.bus.busyBit = false →
    (∀ x ∈ late, x.getLsbD s.cfg.bus.rvalidBit = false) → late.length < s.cfg.bus.rvalidPollMax →
    v.getLsbD s.cfg.bus.rvalidBit = true →
    s.env = .script (busy ++ c :: (late ++ v :: cs)) (d :: ds) →
    exec (.smiRd dev reg) s = .next (answered s .ok (datum d) cs ds
      (busy.map BusEvent.readCtrl ++ [.readCtrl c, .writeCtrl (cwRead s.cfg dev.toNat reg)] ++
        late.map BusEvent.readCtrl ++ [.readCtrl v, .readData d]))

/-- SMI_WR issues its control word and answers Ok without waiting for the cycle (R134, R141). -/
def Obligations.SmiWrIssuesTheControlWord : Prop :=
  ∀ (s : State) (dev : BitVec 8) (reg : RegNum) (val : Half) (busy : List Word) (c : Word) (cs ds : List Word),
    s.cfg.bus.WF → dev.toNat < 32 →
    (∀ x ∈ busy, x.getLsbD s.cfg.bus.busyBit = true) → busy.length < s.cfg.bus.busyPollMax →
    c.getLsbD s.cfg.bus.busyBit = false →
    s.env = .script (busy ++ c :: cs) ds →
    exec (.smiWr dev reg val) s = .next (answered s .ok 0 cs ds
      (busy.map BusEvent.readCtrl ++ [.readCtrl c, .writeCtrl (cwWrite s.cfg dev.toNat reg val)]))

/-- The fifteen commands that are one register access or one field write answer Timeout when a countdown runs out: a
register access when the busy bit outlasts its countdown, a read also when read-valid outlasts its own with the command
word issued and no data read, a field write in either half, with no further access and nothing else changed (R132, R133,
R134, R136, R138; 42_field_codec.md R151; 60_exceptions.md R272, R276). -/
def Obligations.RegisterCommandsTimeOut : Prop :=
  ∀ (s : State) (i : Instr) (u : RegisterUse) (ctrl data : List Word) (evs : List BusEvent) (cs ds : List Word),
    s.cfg.bus.WF → registerUse s i = some u → u.dev < 32 → u.TimesOut s.cfg ctrl data evs →
    s.env = .script (ctrl ++ cs) (data ++ ds) →
    exec i s = .next (answered s .timeout 0 cs ds evs)

/-- The six register commands answer InvalidAddress, with no access and nothing changed, when their device address is 32
or more (R131; 60_exceptions.md R268). -/
def Obligations.RegisterCommandsRefuseWideAddress : Prop :=
  ∀ (s : State) (i : Instr) (dev : Nat), s.cfg.bus.WF → directDevice s.cfg i = some dev → 32 ≤ dev →
    exec i s = .next { s with response := some 0x00020000, seq := .idle }

/-- Against ENV0 in the CFG0 layout, SMI_WR stores to the one cell it names and every other cell reads as before (an
operation register loses bit 15, unless the environment delays), and SMI_RD answers the cell and changes none
(20_memory.md R53, R70). -/
def Obligations.Env0HoldsWhatIsWritten : Prop :=
  ∀ (s : State) (e : Env0) (dev : BitVec 8) (reg : RegNum) (v : Half),
    s.cfg.bus = cfg0.bus → s.env = .env0 e → Memory.wf e.sw = true → dev.toNat < 32 →
    (∃ t e', exec (.smiWr dev reg v) s = .next t ∧ t.env = .env0 e' ∧ t.response = some (responseWord .ok 0) ∧
      Memory.wf e'.sw = true ∧
      (∀ n, n ≠ cellNumber dev.toNat reg → readCell e'.sw n = readCell e.sw n) ∧
      readCell e'.sw (cellNumber dev.toNat reg) =
        (if (isAtuOperation s.cfg dev.toNat reg || isPvtOperation s.cfg dev.toNat reg) && e.delay.isNone
          then v &&& 0x7FFF else v)) ∧
    (∃ t e', exec (.smiRd dev reg) s = .next t ∧ t.env = .env0 e' ∧ e'.sw = e.sw ∧
      (isAtuOperation s.cfg dev.toNat reg = false → isPvtOperation s.cfg dev.toNat reg = false →
        t.response = some (responseWord .ok (readCell e.sw (cellNumber dev.toNat reg)))))

/-! ## Register Field Codec (42_field_codec.md) -/

/-- R150: which bits the mask has, the saturating branch included. -/
def Obligations.FieldMaskBits : Prop :=
  ∀ (off : BitVec 4) (len : BitVec 5) (i : Nat), i < 16 →
    ((fieldMask off len).getLsbD i = true ↔
      (if 16 ≤ off.toNat + len.toNat then off.toNat ≤ i else off.toNat ≤ i ∧ i < off.toNat + len.toNat))

/-- R151, R152: a field write puts bit j of the value at bit off + j inside the mask, drops the value's other bits, and
keeps every bit outside the mask as read. -/
def Obligations.FieldMergeKeepsBitsOutside : Prop :=
  ∀ (r : Half) (off : BitVec 4) (len : BitVec 5) (val : Half) (i : Nat), i < 16 →
    (mergeField r off len val).getLsbD i =
      if (fieldMask off len).getLsbD i then val.getLsbD (i - off.toNat) else r.getLsbD i

/-- SMI_FLD_WR reads the register and writes the merged value back, even when it changes nothing (R151, R154). -/
def Obligations.SmiFldWrWritesTheMergedField : Prop :=
  ∀ (s : State) (dev : BitVec 8) (reg : RegNum) (off : BitVec 4) (len : BitVec 5) (val : Half)
    (r : ReadAnswer) (c : Word) (cs ds : List Word),
    s.cfg.bus.WF → dev.toNat < 32 → r.Prompt s.cfg → Ready s.cfg c →
    s.env = .script (r.ctrl ++ c :: cs) (r.data :: ds) →
    exec (.smiFldWr dev reg off len val) s = .next (answered s .ok 0 cs ds
      (r.trace s.cfg dev.toNat reg ++ writeTrace s.cfg dev.toNat reg (mergeField r.value off len val) c))

/-! ## Address Mapper (43_address_mapper.md) -/

/-- R165: the mapper's table. -/
def Obligations.AddressMapperTable : Prop :=
  ∀ (cfg : Config) (port : Nat),
    mapAddress cfg port .phy = port ∧
    mapAddress cfg port .port = port + cfg.map.portBase ∧
    mapAddress cfg port .global = cfg.map.globalAddr ∧
    mapAddress cfg port .global2 = cfg.map.global2Addr ∧
    mapAddress cfg port .global3 = cfg.map.global3Addr ∧
    mapAddress cfg port .raw = port ∧
    mapAddress cfg port .unknown = cfg.map.fallbackAddr

/-- 30_encoding.md R85: the kind codes; 0, 6 and 7 are Unknown unless one of them is KIND_CODE_GLOBAL3. -/
def Obligations.KindCodesDecode : Prop :=
  (∀ cfg : Config, decodeKind cfg 1 = .phy ∧ decodeKind cfg 2 = .port ∧ decodeKind cfg 3 = .global ∧
    decodeKind cfg 4 = .global2 ∧ decodeKind cfg 5 = .raw ∧
    ∀ k : BitVec 3, k = 0 ∨ k = 6 ∨ k = 7 →
      decodeKind cfg k = (if cfg.map.kindCodeGlobal3 = some k then .global3 else .unknown)) ∧
  decodeKind cfg0 0 = .unknown ∧ decodeKind cfg0 6 = .unknown ∧ decodeKind cfg0 7 = .unknown

/-- REG_RD, REG_WR and REG_FLD_WR act on the mapped device address, an unknown kind's included (R167, R170 to R172). -/
def Obligations.MappedAccessCompletes : Prop :=
  ∀ (s : State) (port : BitVec 8) (reg : RegNum) (kind : BitVec 3) (off : BitVec 4) (len : BitVec 5) (val : Half)
    (r : ReadAnswer) (c : Word) (cs ds : List Word),
    s.cfg.bus.WF → mapAddress s.cfg port.toNat (decodeKind s.cfg kind) < 32 → r.Prompt s.cfg → Ready s.cfg c →
    (s.env = .script (r.ctrl ++ cs) (r.data :: ds) →
      exec (.regRd port reg kind) s = .next (answered s .ok r.value cs ds
        (r.trace s.cfg (mapAddress s.cfg port.toNat (decodeKind s.cfg kind)) reg))) ∧
    (s.env = .script (c :: cs) ds →
      exec (.regWr port reg kind val) s = .next (answered s .ok 0 cs ds
        (writeTrace s.cfg (mapAddress s.cfg port.toNat (decodeKind s.cfg kind)) reg val c))) ∧
    (s.env = .script (r.ctrl ++ c :: cs) (r.data :: ds) →
      exec (.regFldWr port reg kind off len val) s = .next (answered s .ok 0 cs ds
        (r.trace s.cfg (mapAddress s.cfg port.toNat (decodeKind s.cfg kind)) reg ++
          writeTrace s.cfg (mapAddress s.cfg port.toNat (decodeKind s.cfg kind)) reg (mergeField r.value off len val) c)))

/-! ## Operand registers and context (40_operand_and_context.md) -/

/-- LDE writes its register, leaves the others, answers Ok with 0, and changes nothing else (R110). -/
def Obligations.LdeWritesOneRegister : Prop :=
  ∀ (s : State) (i : BitVec 4) (imm : Half), ∃ t,
    exec (.lde i imm) s = .next t ∧ readE i t = imm ∧ (∀ j, j ≠ i → readE j t = readE j s) ∧
    { t with e := s.e } = { s with response := some 0x00000000, seq := .idle }

/-- RDE answers its register and changes nothing else (R111). -/
def Obligations.RdeAnswersTheRegister : Prop :=
  ∀ (s : State) (i : BitVec 4), ∃ rw,
    exec (.rde i) s = .next { s with response := some rw, seq := .idle } ∧
    responseCode rw = 0 ∧ responseValue rw = readE i s ∧ rw.extractLsb' 20 12 = 0#12

/-- CTX_INIT with a supported identifier replaces all six fields and makes the context valid; with another it answers
NotSupported and makes the context invalid, its six value fields as they were (R112; 60_exceptions.md R276). -/
def Obligations.CtxInitBuildsTheContext : Prop :=
  ∀ s : State,
    (readE 0 s ∈ s.cfg.supportedIds →
      exec .ctxInit s = .next { s with
        ctx := { valid := true, deviceId := readE 0 s, portCount := readE 1 s, maxPorts := readE 2 s,
                 cpuPort := readE 3 s, validPortMask := readE 4 s, validPhyMask := readE 5 s },
        response := some 0x00000000, seq := .idle }) ∧
    (readE 0 s ∉ s.cfg.supportedIds →
      exec .ctxInit s = .next
        { s with ctx := { s.ctx with valid := false }, response := some 0x00050000, seq := .idle })

/-- CTX_RD answers the field its index names, the valid bit always, a value field only of a valid context (R113). -/
def Obligations.CtxRdAnswersTheField : Prop :=
  ∀ s : State,
    exec (.ctxRd 6) s = .next { s with response := some (responseWord .ok (if s.ctx.valid then 1 else 0)), seq := .idle } ∧
    (s.ctx.valid = true →
      ∀ p ∈ ([(0, s.ctx.deviceId), (1, s.ctx.portCount), (2, s.ctx.maxPorts), (3, s.ctx.cpuPort),
          (4, s.ctx.validPortMask), (5, s.ctx.validPhyMask)] : List (BitVec 4 × Half)),
        exec (.ctxRd p.1) s = .next { s with response := some (responseWord .ok p.2), seq := .idle }) ∧
    (s.ctx.valid = false → ∀ n : BitVec 4, n.toNat ≤ 5 →
      exec (.ctxRd n) s = .next { s with response := some 0x00010000, seq := .idle })

/-- R114: without a valid context the commands that read a value field of it answer Fail with no access and no other
effect, and the commands that read none never answer Fail. -/
def Obligations.MissingContextAnswersFail : Prop :=
  (∀ (s : State) (i : Instr), readsContext i = true → s.ctx.valid = false →
    exec i s = .next { s with response := some 0x00010000, seq := .idle }) ∧
  (∀ (s t : State) (i : Instr), readsContext i = false → i.wf = true → s.response = none → exec i s = .next t →
    ∀ rw, t.response = some rw → responseCode rw ≠ statusCode .fail)

/-! ## Table engine (44_atu_engine.md, 45_pvt_engine.md) -/

/-- The words of a table operation, bit by bit: the operation word (R188), the flush data word (R192), the violation kind
of each of the sixteen nibbles (R201), and where ATU_SVC_VIOL finds the nibble and the entry state (R200). -/
def Obligations.TableWordLayouts : Prop :=
  (∀ (op : BitVec 3) (extra : Half),
    (opWord op extra).getLsbD 15 = true ∧ (opWord op extra).extractLsb' 12 3 = op ∧
    (opWord op extra).extractLsb' 0 12 = extra.extractLsb' 0 12) ∧
  (∀ s : State,
    ((readE 5 s).extractLsb' 0 4 = 0xF#4 →
      (flushData s).extractLsb' 0 4 = 0xF#4 ∧ (flushData s).extractLsb' 4 4 = (readE 9 s).extractLsb' 0 4 ∧
      (flushData s).extractLsb' 8 4 = (readE 10 s).extractLsb' 0 4 ∧ (flushData s).extractLsb' 12 4 = 0#4) ∧
    ((readE 5 s).extractLsb' 0 4 ≠ 0xF#4 → flushData s = 0x0000)) ∧
  (violKind 0 = 0 ∧ violKind 1 = 4 ∧ (∀ n : BitVec 4, n = 2 ∨ n = 3 → violKind n = 3) ∧
    (∀ n : BitVec 4, 4 ≤ n.toNat → n.toNat ≤ 7 → violKind n = 2) ∧
    (∀ n : BitVec 4, 8 ≤ n.toNat → violKind n = 1)) ∧
  (∀ (cfg : Config) (o d : Half) (i : Nat),
    (violNibble cfg o).getLsbD i = (decide (i < 4) && o.getLsbD (cfg.atu.violNibbleLsb + i)) ∧
    (violState cfg d).getLsbD i = (decide (i < 4) && d.getLsbD (cfg.atu.stateLsb + i)))

/-- R189, R190: the ATU data word's layout, bit by bit, packing and unpacking, the operand registers unpacking leaves
alone; and unpacking a packed entry gives its fields back, cut to their widths, when the port vector's bits are clear of
the other fields (93_implementation_defined.md U11). -/
def Obligations.PackedEntryUnpacks : Prop :=
  (∀ (s : State) (i : Nat), i < 16 →
    (packAtuData s).getLsbD i =
      ((decide (s.cfg.atu.stateLsb ≤ i ∧ i < s.cfg.atu.stateLsb + 4) && (readE 5 s).getLsbD (i - s.cfg.atu.stateLsb)) ||
       (decide (s.cfg.atu.pvLsb ≤ i ∧ i < s.cfg.atu.pvLsb + s.ctx.portCount.toNat) &&
          (readE 4 s).getLsbD (i - s.cfg.atu.pvLsb)) ||
       (decide (s.cfg.atu.prioLsb ≤ i ∧ i < s.cfg.atu.prioLsb + 2) && (readE 6 s).getLsbD (i - s.cfg.atu.prioLsb)) ||
       (decide (s.cfg.atu.trunkBit = some i) && (readE 7 s).getLsbD 0))) ∧
  (∀ (d : Half) (s : State) (i : Nat),
    (readE 5 (unpackAtuData d s)).getLsbD i = (decide (i < 4) && d.getLsbD (s.cfg.atu.stateLsb + i)) ∧
    (readE 4 (unpackAtuData d s)).getLsbD i =
      (decide (i < s.ctx.portCount.toNat) && d.getLsbD (s.cfg.atu.pvLsb + i)) ∧
    (readE 6 (unpackAtuData d s)).getLsbD i = (decide (i < 2) && d.getLsbD (s.cfg.atu.prioLsb + i)) ∧
    (∀ t, s.cfg.atu.trunkBit = some t →
      (readE 7 (unpackAtuData d s)).getLsbD i = (decide (i = 0) && d.getLsbD t)) ∧
    (∀ j : BitVec 4, j ≠ 4 → j ≠ 5 → j ≠ 6 → (j = 7 → s.cfg.atu.trunkBit = none) →
      readE j (unpackAtuData d s) = readE j s)) ∧
  (∀ s : State, s.cfg.atu.WF →
    s.cfg.atu.pvLsb + s.ctx.portCount.toNat ≤ 16 →
    (s.cfg.atu.pvLsb + s.ctx.portCount.toNat ≤ s.cfg.atu.stateLsb ∨ s.cfg.atu.stateLsb + 4 ≤ s.cfg.atu.pvLsb) →
    (s.cfg.atu.pvLsb + s.ctx.portCount.toNat ≤ s.cfg.atu.prioLsb ∨ s.cfg.atu.prioLsb + 2 ≤ s.cfg.atu.pvLsb) →
    (∀ t, s.cfg.atu.trunkBit = some t → s.cfg.atu.pvLsb + s.ctx.portCount.toNat ≤ t ∨ t < s.cfg.atu.pvLsb) →
    readE 5 (unpackAtuData (packAtuData s) s) = readE 5 s &&& 0xF ∧
    readE 4 (unpackAtuData (packAtuData s) s) = readE 4 s &&& pvMask s.ctx ∧
    readE 6 (unpackAtuData (packAtuData s) s) = readE 6 s &&& 0x3 ∧
    readE 7 (unpackAtuData (packAtuData s) s) =
      (if s.cfg.atu.trunkBit.isSome then readE 7 s &&& 1 else readE 7 s))

/-- ATU_FLUSH_ALL and ATU_FLUSH_UNLOCKED: wait, flush word, operation word, the second wait only under POST_WAIT_ALL
(R185, R187, R192, R194, R195). -/
def Obligations.AtuFlushCompletes : Prop :=
  ∀ (s : State) (r r' : ReadAnswer) (c0 c1 : Word) (cs ds : List Word),
    s.cfg.WF → s.ctx.valid = true → r.Shows s.cfg false → r'.Shows s.cfg false → Ready s.cfg c0 → Ready s.cfg c1 →
    s.env = .script (r.ctrl ++ [c0, c1] ++ whenPostWait s.cfg r'.ctrl ++ cs)
      ([r.data] ++ whenPostWait s.cfg [r'.data] ++ ds) →
    exec .atuFlushAll s = .next (answered s .ok 0 cs ds
      (r.trace s.cfg (atuDev s.cfg) s.cfg.atu.operation ++
       writeTrace s.cfg (atuDev s.cfg) s.cfg.atu.data (flushData s) c0 ++
       writeTrace s.cfg (atuDev s.cfg) s.cfg.atu.operation (atuWord s.cfg.atu.opFlushAll s) c1 ++
       whenPostWait s.cfg (r'.trace s.cfg (atuDev s.cfg) s.cfg.atu.operation))) ∧
    exec .atuFlushUnlocked s = .next (answered s .ok 0 cs ds
      (r.trace s.cfg (atuDev s.cfg) s.cfg.atu.operation ++
       writeTrace s.cfg (atuDev s.cfg) s.cfg.atu.data (flushData s) c0 ++
       writeTrace s.cfg (atuDev s.cfg) s.cfg.atu.operation (atuWord s.cfg.atu.opFlushUnlocked s) c1 ++
       whenPostWait s.cfg (r'.trace s.cfg (atuDev s.cfg) s.cfg.atu.operation)))

/-- ATU_FLUSH_ALL_DB and ATU_FLUSH_UNLOCKED_DB: the same with the database number before the operation word
(R187, R193, R198, R199). -/
def Obligations.AtuFlushDatabaseCompletes : Prop :=
  ∀ (s : State) (r r' : ReadAnswer) (c0 c1 c2 : Word) (cs ds : List Word),
    s.cfg.WF → s.ctx.valid = true → r.Shows s.cfg false → r'.Shows s.cfg false →
    (∀ c ∈ [c0, c1, c2], Ready s.cfg c) →
    s.env = .script (r.ctrl ++ [c0, c1, c2] ++ whenPostWait s.cfg r'.ctrl ++ cs)
      ([r.data] ++ whenPostWait s.cfg [r'.data] ++ ds) →
    exec .atuFlushAllDb s = .next (answered s .ok 0 cs ds
      (r.trace s.cfg (atuDev s.cfg) s.cfg.atu.operation ++
       writeTrace s.cfg (atuDev s.cfg) s.cfg.atu.data (flushData s) c0 ++
       writeTrace s.cfg (atuDev s.cfg) s.cfg.atu.fid (readE 3 s &&& 0x0FFF) c1 ++
       writeTrace s.cfg (atuDev s.cfg) s.cfg.atu.operation (atuWord s.cfg.atu.opFlushAllDb s) c2 ++
       whenPostWait s.cfg (r'.trace s.cfg (atuDev s.cfg) s.cfg.atu.operation))) ∧
    exec .atuFlushUnlockedDb s = .next (answered s .ok 0 cs ds
      (r.trace s.cfg (atuDev s.cfg) s.cfg.atu.operation ++
       writeTrace s.cfg (atuDev s.cfg) s.cfg.atu.data (flushData s) c0 ++
       writeTrace s.cfg (atuDev s.cfg) s.cfg.atu.fid (readE 3 s &&& 0x0FFF) c1 ++
       writeTrace s.cfg (atuDev s.cfg) s.cfg.atu.operation (atuWord s.cfg.atu.opFlushUnlockedDb s) c2 ++
       whenPostWait s.cfg (r'.trace s.cfg (atuDev s.cfg) s.cfg.atu.operation)))

/-- ATU_LOAD_PURGE: the data word, the MAC, the database number, then the operation word (R187, R189, R191, R196). -/
def Obligations.AtuLoadPurgeCompletes : Prop :=
  ∀ (s : State) (r r' : ReadAnswer) (c0 c1 c2 c3 c4 c5 : Word) (cs ds : List Word),
    s.cfg.WF → s.ctx.valid = true → r.Shows s.cfg false → r'.Shows s.cfg false →
    (∀ c ∈ [c0, c1, c2, c3, c4, c5], Ready s.cfg c) →
    s.env = .script (r.ctrl ++ [c0, c1, c2, c3, c4, c5] ++ whenPostWait s.cfg r'.ctrl ++ cs)
      ([r.data] ++ whenPostWait s.cfg [r'.data] ++ ds) →
    exec .atuLoadPurge s = .next (answered s .ok 0 cs ds
      (r.trace s.cfg (atuDev s.cfg) s.cfg.atu.operation ++
       writeTrace s.cfg (atuDev s.cfg) s.cfg.atu.data (packAtuData s) c0 ++
       writeTrace s.cfg (atuDev s.cfg) s.cfg.atu.macBase (readE 0 s) c1 ++
       writeTrace s.cfg (atuDev s.cfg) (s.cfg.atu.macBase + 1) (readE 1 s) c2 ++
       writeTrace s.cfg (atuDev s.cfg) (s.cfg.atu.macBase + 2) (readE 2 s) c3 ++
       writeTrace s.cfg (atuDev s.cfg) s.cfg.atu.fid (readE 3 s &&& 0x0FFF) c4 ++
       writeTrace s.cfg (atuDev s.cfg) s.cfg.atu.operation (atuWord s.cfg.atu.opLoadPurge s) c5 ++
       whenPostWait s.cfg (r'.trace s.cfg (atuDev s.cfg) s.cfg.atu.operation)))

/-- ATU_GET_NEXT: the key, the operation word, the second wait always, then the entry into the operand registers
(R187, R190, R191, R197). -/
def Obligations.AtuGetNextCompletes : Prop :=
  ∀ (s : State) (r r' rd r0 r1 r2 : ReadAnswer) (c0 c1 c2 c3 c4 : Word) (cs ds : List Word),
    s.cfg.WF → s.ctx.valid = true → r.Shows s.cfg false → r'.Shows s.cfg false →
    (∀ c ∈ [c0, c1, c2, c3, c4], Ready s.cfg c) → (∀ a ∈ [rd, r0, r1, r2], a.Prompt s.cfg) →
    s.env = .script (r.ctrl ++ [c0, c1, c2, c3, c4] ++ r'.ctrl ++ rd.ctrl ++ r0.ctrl ++ r1.ctrl ++ r2.ctrl ++ cs)
      ([r.data, r'.data, rd.data, r0.data, r1.data, r2.data] ++ ds) →
    exec .atuGetNext s = .next (answered (storedEntry s rd.value r0.value r1.value r2.value) .ok 0 cs ds
      (r.trace s.cfg (atuDev s.cfg) s.cfg.atu.operation ++
       writeTrace s.cfg (atuDev s.cfg) s.cfg.atu.macBase (readE 0 s) c0 ++
       writeTrace s.cfg (atuDev s.cfg) (s.cfg.atu.macBase + 1) (readE 1 s) c1 ++
       writeTrace s.cfg (atuDev s.cfg) (s.cfg.atu.macBase + 2) (readE 2 s) c2 ++
       writeTrace s.cfg (atuDev s.cfg) s.cfg.atu.fid (readE 3 s &&& 0x0FFF) c3 ++
       writeTrace s.cfg (atuDev s.cfg) s.cfg.atu.operation (atuWord s.cfg.atu.opGetNext s) c4 ++
       r'.trace s.cfg (atuDev s.cfg) s.cfg.atu.operation ++
       rd.trace s.cfg (atuDev s.cfg) s.cfg.atu.data ++
       r0.trace s.cfg (atuDev s.cfg) s.cfg.atu.macBase ++
       r1.trace s.cfg (atuDev s.cfg) (s.cfg.atu.macBase + 1) ++
       r2.trace s.cfg (atuDev s.cfg) (s.cfg.atu.macBase + 2)))

/-- ATU_SVC_VIOL: the operation word, the second wait, the cause, then the read-back of the database number, the entry
state and the MAC, left out only for kind None under VIOL_NONE_SKIPS_READBACK (R200, R201). -/
def Obligations.AtuSvcViolCompletes : Prop :=
  ∀ (s : State) (r r' ro rf rd r0 r1 r2 : ReadAnswer) (c0 : Word) (cs ds : List Word) (kind : Half),
    s.cfg.WF → s.ctx.valid = true → r.Shows s.cfg false → r'.Shows s.cfg false → Ready s.cfg c0 →
    (∀ a ∈ [ro, rf, rd, r0, r1, r2], a.Prompt s.cfg) → kind = violKind (violNibble s.cfg ro.value) →
    (¬ (kind = 0 ∧ s.cfg.atu.violNoneSkipsReadback = true) →
      s.env = .script (r.ctrl ++ [c0] ++ r'.ctrl ++ ro.ctrl ++ rf.ctrl ++ rd.ctrl ++ r0.ctrl ++ r1.ctrl ++ r2.ctrl ++ cs)
        ([r.data, r'.data, ro.data, rf.data, rd.data, r0.data, r1.data, r2.data] ++ ds) →
      exec .atuSvcViol s = .next
        (answered (storedViolation s kind rf.value rd.value r0.value r1.value r2.value) .ok kind cs ds
          (r.trace s.cfg (atuDev s.cfg) s.cfg.atu.operation ++
           writeTrace s.cfg (atuDev s.cfg) s.cfg.atu.operation (atuWord s.cfg.atu.opServiceViolations s) c0 ++
           r'.trace s.cfg (atuDev s.cfg) s.cfg.atu.operation ++
           ro.trace s.cfg (atuDev s.cfg) s.cfg.atu.operation ++
           rf.trace s.cfg (atuDev s.cfg) s.cfg.atu.fid ++
           rd.trace s.cfg (atuDev s.cfg) s.cfg.atu.data ++
           r0.trace s.cfg (atuDev s.cfg) s.cfg.atu.macBase ++
           r1.trace s.cfg (atuDev s.cfg) (s.cfg.atu.macBase + 1) ++
           r2.trace s.cfg (atuDev s.cfg) (s.cfg.atu.macBase + 2)))) ∧
    (kind = 0 → s.cfg.atu.violNoneSkipsReadback = true →
      s.env = .script (r.ctrl ++ [c0] ++ r'.ctrl ++ ro.ctrl ++ cs) ([r.data, r'.data, ro.data] ++ ds) →
      exec .atuSvcViol s = .next (answered (writeE 11 0 s) .ok 0 cs ds
        (r.trace s.cfg (atuDev s.cfg) s.cfg.atu.operation ++
         writeTrace s.cfg (atuDev s.cfg) s.cfg.atu.operation (atuWord s.cfg.atu.opServiceViolations s) c0 ++
         r'.trace s.cfg (atuDev s.cfg) s.cfg.atu.operation ++
         ro.trace s.cfg (atuDev s.cfg) s.cfg.atu.operation)))

/-- PVT_WRITE: wait, data, operation word with the cell address; no context needed (45_pvt_engine.md R221, R223). -/
def Obligations.PvtWriteCompletes : Prop :=
  ∀ (s : State) (r r' : ReadAnswer) (c0 c1 : Word) (cs ds : List Word),
    s.cfg.WF → r.Shows s.cfg false → r'.Shows s.cfg false → Ready s.cfg c0 → Ready s.cfg c1 →
    s.env = .script (r.ctrl ++ [c0, c1] ++ whenPostWait s.cfg r'.ctrl ++ cs)
      ([r.data] ++ whenPostWait s.cfg [r'.data] ++ ds) →
    exec .pvtWrite s = .next (answered s .ok 0 cs ds
      (r.trace s.cfg (pvtDev s.cfg) s.cfg.pvt.addr ++
       writeTrace s.cfg (pvtDev s.cfg) s.cfg.pvt.data (readE 13 s) c0 ++
       writeTrace s.cfg (pvtDev s.cfg) s.cfg.pvt.addr
         (opWord s.cfg.pvt.opWrite (readE 12 s &&& s.cfg.pvt.addrMask)) c1 ++
       whenPostWait s.cfg (r'.trace s.cfg (pvtDev s.cfg) s.cfg.pvt.addr)))

/-- PVT_READ: wait, operation word with the cell address, wait, data into E[13] and the response
(45_pvt_engine.md R222, R223). -/
def Obligations.PvtReadCompletes : Prop :=
  ∀ (s : State) (r r' rd : ReadAnswer) (c0 : Word) (cs ds : List Word),
    s.cfg.WF → r.Shows s.cfg false → r'.Shows s.cfg false → rd.Prompt s.cfg → Ready s.cfg c0 →
    s.env = .script (r.ctrl ++ [c0] ++ r'.ctrl ++ rd.ctrl ++ cs) ([r.data, r'.data, rd.data] ++ ds) →
    exec .pvtRead s = .next (answered (writeE 13 rd.value s) .ok rd.value cs ds
      (r.trace s.cfg (pvtDev s.cfg) s.cfg.pvt.addr ++
       writeTrace s.cfg (pvtDev s.cfg) s.cfg.pvt.addr
         (opWord s.cfg.pvt.opRead (readE 12 s &&& s.cfg.pvt.addrMask)) c0 ++
       r'.trace s.cfg (pvtDev s.cfg) s.cfg.pvt.addr ++
       rd.trace s.cfg (pvtDev s.cfg) s.cfg.pvt.data))

/-- A table that shows busy keeps its command waiting, one poll a step, nothing else changed; a command enters the first
wait the same way, and the second wait once its commit is made (R185, R186; log 1). -/
def Obligations.BusyTableKeepsTheCommandWaiting : Prop :=
  ∀ (s : State) (c : TableCmd) (r : ReadAnswer) (cs ds : List Word),
    s.cfg.WF → r.Shows s.cfg true →
    (s.env = .script (r.ctrl ++ cs) (r.data :: ds) →
      ((needsContext c = true → s.ctx.valid = true) → waitExhausted s.cfg 1 = false →
        exec (latchedCommand c) s = .next
          { busMoved s cs ds (r.trace s.cfg (tablePlan s.cfg c).dev (tablePlan s.cfg c).opReg) with
            seq := .waiting c .pre 1 }) ∧
      (∀ ph k, s.seq = .waiting c ph k → s.resetIn = none → waitExhausted s.cfg (k + 1) = false →
        step s = .next
          { busMoved s cs ds (r.trace s.cfg (tablePlan s.cfg c).dev (tablePlan s.cfg c).opReg) with
            seq := .waiting c ph (k + 1) })) ∧
    (∀ (r0 : ReadAnswer) (writes : List ((RegNum × Half) × Word)),
      (needsContext c = true → s.ctx.valid = true) →
      (tablePlan s.cfg c).readStyle = true ∨ s.cfg.postWaitAll = true → waitExhausted s.cfg 1 = false →
      r0.Shows s.cfg false → writes.map (fun row => row.1) = (tablePlan s.cfg c).commit s →
      (∀ row ∈ writes, Ready s.cfg row.2) →
      s.env = .script (r0.ctrl ++ writes.map (fun row => row.2) ++ r.ctrl ++ cs) (r0.data :: r.data :: ds) →
      exec (latchedCommand c) s = .next
        { busMoved s cs ds (r0.trace s.cfg (tablePlan s.cfg c).dev (tablePlan s.cfg c).opReg ++
            commitTrace s.cfg (tablePlan s.cfg c).dev writes ++
            r.trace s.cfg (tablePlan s.cfg c).dev (tablePlan s.cfg c).opReg) with
          seq := .waiting c .post 1 })

/-- With no bound set, a table that shows busy for n polls keeps its command waiting for n steps, whatever n: no response
ever comes of the wait itself (R186; 60_exceptions.md R278). -/
def Obligations.UnboundedTableWaitNeverAnswers : Prop :=
  ∀ (n : Nat) (s : State) (c : TableCmd) (ph : WaitPhase) (k : Nat) (r : ReadAnswer) (cs ds : List Word),
    s.cfg.WF → s.cfg.tableWaitBound = none → s.seq = .waiting c ph k → s.resetIn = none → r.Shows s.cfg true →
    s.env = .script ((List.replicate n r.ctrl).flatten ++ cs) (List.replicate n r.data ++ ds) →
    Sys2Proof.core.run n s = .next
      { busMoved s cs ds
          (List.replicate n (r.trace s.cfg (tablePlan s.cfg c).dev (tablePlan s.cfg c).opReg)).flatten with
        seq := .waiting c ph (k + n) }

/-- With TABLE_WAIT_BOUND set to b, the b-th busy poll of a wait answers Timeout, of the second wait too (R186). -/
def Obligations.TableWaitBoundAnswersTimeout : Prop :=
  ∀ (s : State) (c : TableCmd) (r : ReadAnswer) (cs ds : List Word) (k : Nat),
    s.cfg.WF → s.cfg.tableWaitBound = some (k + 1) → r.Shows s.cfg true →
    (s.env = .script (r.ctrl ++ cs) (r.data :: ds) →
      (k = 0 → (needsContext c = true → s.ctx.valid = true) →
        exec (latchedCommand c) s = .next (answered s .timeout 0 cs ds
          (r.trace s.cfg (tablePlan s.cfg c).dev (tablePlan s.cfg c).opReg))) ∧
      (∀ ph, s.seq = .waiting c ph k → s.resetIn = none →
        step s = .next (answered s .timeout 0 cs ds
          (r.trace s.cfg (tablePlan s.cfg c).dev (tablePlan s.cfg c).opReg)))) ∧
    (∀ (r0 : ReadAnswer) (writes : List ((RegNum × Half) × Word)),
      k = 0 → (needsContext c = true → s.ctx.valid = true) →
      (tablePlan s.cfg c).readStyle = true ∨ s.cfg.postWaitAll = true →
      r0.Shows s.cfg false → writes.map (fun row => row.1) = (tablePlan s.cfg c).commit s →
      (∀ row ∈ writes, Ready s.cfg row.2) →
      s.env = .script (r0.ctrl ++ writes.map (fun row => row.2) ++ r.ctrl ++ cs) (r0.data :: r.data :: ds) →
      exec (latchedCommand c) s = .next (answered s .timeout 0 cs ds
        (r0.trace s.cfg (tablePlan s.cfg c).dev (tablePlan s.cfg c).opReg ++
         commitTrace s.cfg (tablePlan s.cfg c).dev writes ++
         r.trace s.cfg (tablePlan s.cfg c).dev (tablePlan s.cfg c).opReg)))

/-- Once a poll of the first wait shows the table ready, the waiting command goes on as it does when its first poll shows
that; once one of the second wait does, its results are read (R185, R186; log 1). -/
def Obligations.ResumedWaitRunsTheCommand : Prop :=
  ∀ (s t : State) (c : TableCmd) (k : Nat) (v : Half), s.resetIn = none →
    smiRead (tablePlan s.cfg c).dev (tablePlan s.cfg c).opReg s = (.ok v, t) → v.getLsbD 15 = false →
    (s.seq = .waiting c .pre k → (needsContext c = true → s.ctx.valid = true) →
      step s = exec (latchedCommand c) s) ∧
    (s.seq = .waiting c .post k → step s = .next (finish (tableResult (tablePlan s.cfg c)) t))

/-- A Bus Transport operation that times out inside a table command ends it there: in a poll of either wait, in a write of
the commit, in a result read. The answer is Timeout, no further access is made, nothing is rolled back, and the results
read before stay in their operand registers (R202; 60_exceptions.md R272, R276). -/
def Obligations.TableFailureKeepsWhatWasDone : Prop :=
  ∀ (s : State) (c : TableCmd) (r r' : ReadAnswer) (writes : List ((RegNum × Half) × Word)) (ctrl : List Word)
    (evs : List BusEvent) (cs ds : List Word),
    s.cfg.WF → r.Shows s.cfg false → r'.Shows s.cfg false → (∀ row ∈ writes, Ready s.cfg row.2) →
    (∀ ph k, s.seq = .waiting c ph k → s.resetIn = none →
      ReadTimesOut s.cfg (tablePlan s.cfg c).dev (tablePlan s.cfg c).opReg ctrl evs →
      s.env = .script (ctrl ++ cs) ds → step s = .next (answered s .timeout 0 cs ds evs)) ∧
    ((needsContext c = true → s.ctx.valid = true) →
      (ReadTimesOut s.cfg (tablePlan s.cfg c).dev (tablePlan s.cfg c).opReg ctrl evs → s.env = .script (ctrl ++ cs) ds →
        exec (latchedCommand c) s = .next (answered s .timeout 0 cs ds evs)) ∧
      (∀ w later, (tablePlan s.cfg c).commit s = writes.map (fun row => row.1) ++ w :: later →
        WriteTimesOut s.cfg ctrl evs →
        s.env = .script (r.ctrl ++ writes.map (fun row => row.2) ++ ctrl ++ cs) (r.data :: ds) →
        exec (latchedCommand c) s = .next (answered s .timeout 0 cs ds
          (r.trace s.cfg (tablePlan s.cfg c).dev (tablePlan s.cfg c).opReg ++
           commitTrace s.cfg (tablePlan s.cfg c).dev writes ++ evs))) ∧
      ((tablePlan s.cfg c).readStyle = true ∨ s.cfg.postWaitAll = true →
        (tablePlan s.cfg c).commit s = writes.map (fun row => row.1) →
        ReadTimesOut s.cfg (tablePlan s.cfg c).dev (tablePlan s.cfg c).opReg ctrl evs →
        s.env = .script (r.ctrl ++ writes.map (fun row => row.2) ++ ctrl ++ cs) (r.data :: ds) →
        exec (latchedCommand c) s = .next (answered s .timeout 0 cs ds
          (r.trace s.cfg (tablePlan s.cfg c).dev (tablePlan s.cfg c).opReg ++
           commitTrace s.cfg (tablePlan s.cfg c).dev writes ++ evs))) ∧
      (∀ (got : List ((RegNum × ResultUse) × ReadAnswer)) (u : RegNum × ResultUse) (later : List (RegNum × ResultUse)),
        (tablePlan s.cfg c).commit s = writes.map (fun row => row.1) →
        (tablePlan s.cfg c).results = got.map (fun row => row.1) ++ u :: later →
        (∀ row ∈ got, row.2.Prompt s.cfg ∧ endsReadBack s.cfg row.1.2 row.2.value = false) →
        ReadTimesOut s.cfg (tablePlan s.cfg c).dev u.1 ctrl evs →
        s.env = .script
          (r.ctrl ++ writes.map (fun row => row.2) ++ r'.ctrl ++ got.flatMap (fun row => row.2.ctrl) ++ ctrl ++ cs)
          (r.data :: r'.data :: (got.map (fun row => row.2.data) ++ ds)) →
        exec (latchedCommand c) s = .next (answered (resultsStored s got) .timeout 0 cs ds
          (r.trace s.cfg (tablePlan s.cfg c).dev (tablePlan s.cfg c).opReg ++
           commitTrace s.cfg (tablePlan s.cfg c).dev writes ++
           r'.trace s.cfg (tablePlan s.cfg c).dev (tablePlan s.cfg c).opReg ++
           resultTrace s.cfg (tablePlan s.cfg c).dev got ++ evs))))

/-! ## Port configuration (46_port_config.md) -/

/-- The eight field commands read the described register and write the argument into the described field
(R235, R237 to R245). -/
def Obligations.PortFieldCommandsWriteTheField : Prop :=
  ∀ (s : State) (port : BitVec 8) (v : Half) (r : ReadAnswer) (c : Word) (cs ds : List Word),
    ∀ f ∈ fieldForms s.cfg port v,
    s.cfg.WF → s.ctx.valid = true → pcfgLegal s.cfg s.ctx.deviceId f.2.1 = true → inRanges f.2.2.legal v = true →
    mapAddress s.cfg port.toNat f.2.2.kind < 32 → r.Prompt s.cfg → Ready s.cfg c →
    s.env = .script (r.ctrl ++ c :: cs) (r.data :: ds) →
    exec f.1 s = .next (answered s .ok 0 cs ds
      (r.trace s.cfg (mapAddress s.cfg port.toNat f.2.2.kind) (regNumber s.cfg f.2.2.reg) ++
       writeTrace s.cfg (mapAddress s.cfg port.toNat f.2.2.kind) (regNumber s.cfg f.2.2.reg)
         (mergeField r.value f.2.2.off f.2.2.len v) c))

/-- The jumbo thresholds, both sides of each (R246); and PORT_JUMBO writes the code of its size's mode and answers it,
whatever the size (R246, R247). -/
def Obligations.PortJumboWritesTheModeCode : Prop :=
  ((∀ size : Half, size.toNat ≤ 1522 → jumboMode size = .a) ∧
   (∀ size : Half, 1522 < size.toNat → size.toNat ≤ 2048 → jumboMode size = .b) ∧
   (∀ size : Half, 2048 < size.toNat → jumboMode size = .c) ∧
   jumboCode cfg0 .a = 0 ∧ jumboCode cfg0 .b = 1 ∧ jumboCode cfg0 .c = 2) ∧
  ∀ (s : State) (port : BitVec 8) (size : Half) (r : ReadAnswer) (c : Word) (cs ds : List Word),
    s.cfg.WF → s.ctx.valid = true → pcfgLegal s.cfg s.ctx.deviceId .portJumbo = true →
    mapAddress s.cfg port.toNat s.cfg.port.descJumbo.kind < 32 → r.Prompt s.cfg → Ready s.cfg c →
    s.env = .script (r.ctrl ++ c :: cs) (r.data :: ds) →
    exec (.portJumbo port size) s = .next (answered s .ok (jumboCode s.cfg (jumboMode size)) cs ds
      (r.trace s.cfg (mapAddress s.cfg port.toNat s.cfg.port.descJumbo.kind) (regNumber s.cfg s.cfg.port.descJumbo.reg) ++
       writeTrace s.cfg (mapAddress s.cfg port.toNat s.cfg.port.descJumbo.kind)
         (regNumber s.cfg s.cfg.port.descJumbo.reg)
         (mergeField r.value s.cfg.port.descJumbo.off s.cfg.port.descJumbo.len (jumboCode s.cfg (jumboMode size))) c))

/-- PHY_POWER: the page, a field write for each row of POWER_BITS in order, the page restored (R249). -/
def Obligations.PhyPowerWritesPageBitsRestore : Prop :=
  ∀ (s : State) (port : BitVec 8) (v : Half) (rows : List (PowerBit × ReadAnswer × Word)) (cp cr : Word)
    (cs ds : List Word),
    s.cfg.WF → s.ctx.valid = true → pcfgLegal s.cfg s.ctx.deviceId .phyPower = true → v.toNat ≤ 1 → port.toNat < 32 →
    rows.map (fun row => row.1) = s.cfg.phy.powerBits →
    (∀ row ∈ rows, row.2.1.Prompt s.cfg ∧ Ready s.cfg row.2.2) → Ready s.cfg cp → Ready s.cfg cr →
    s.env = .script (cp :: (rows.flatMap (fun row => row.2.1.ctrl ++ [row.2.2]) ++ cr :: cs))
      (rows.map (fun row => row.2.1.data) ++ ds) →
    exec (.phyPower port v) s = .next (answered s .ok 0 cs ds
      (writeTrace s.cfg port.toNat s.cfg.phy.pageReg s.cfg.phy.powerPage cp ++
       powerTrace s.cfg port.toNat v rows ++
       writeTrace s.cfg port.toNat s.cfg.phy.pageReg s.cfg.phy.pageDefault cr))

/-- PHY_POWER restores the page when a row of POWER_BITS times out in its read or in its write half, touches no later row,
and reports that failure, whether or not the restore goes through; a restore that times out after rows that went through
is reported too; when the page write itself times out nothing is restored (R249; 70_reset_and_hazards.md R305). -/
def Obligations.PhyPowerRestoresThePageAfterFailure : Prop :=
  ∀ (s : State) (port : BitVec 8) (v : Half) (cp : Word) (done : List (PowerBit × ReadAnswer × Word))
    (ctrl data : List Word) (evs : List BusEvent) (cs ds : List Word),
    s.cfg.WF → s.ctx.valid = true → pcfgLegal s.cfg s.ctx.deviceId .phyPower = true → v.toNat ≤ 1 → port.toNat < 32 →
    Ready s.cfg cp → (∀ row ∈ done, row.2.1.Prompt s.cfg ∧ Ready s.cfg row.2.2) →
    (WriteTimesOut s.cfg ctrl evs → s.env = .script (ctrl ++ cs) ds →
      exec (.phyPower port v) s = .next (answered s .timeout 0 cs ds evs)) ∧
    (∀ (b : PowerBit) (later : List PowerBit),
      s.cfg.phy.powerBits = done.map (fun row => row.1) ++ b :: later →
      FieldWriteTimesOut s.cfg port.toNat (regNumber s.cfg b.reg) ctrl data evs →
      (∀ cr, Ready s.cfg cr →
        s.env = .script (cp :: (done.flatMap (fun row => row.2.1.ctrl ++ [row.2.2]) ++ ctrl ++ cr :: cs))
          (done.map (fun row => row.2.1.data) ++ data ++ ds) →
        exec (.phyPower port v) s = .next (answered s .timeout 0 cs ds
          (writeTrace s.cfg port.toNat s.cfg.phy.pageReg s.cfg.phy.powerPage cp ++
           powerTrace s.cfg port.toNat v done ++ evs ++
           writeTrace s.cfg port.toNat s.cfg.phy.pageReg s.cfg.phy.pageDefault cr))) ∧
      (∀ ctrl' evs', WriteTimesOut s.cfg ctrl' evs' →
        s.env = .script (cp :: (done.flatMap (fun row => row.2.1.ctrl ++ [row.2.2]) ++ ctrl ++ ctrl' ++ cs))
          (done.map (fun row => row.2.1.data) ++ data ++ ds) →
        exec (.phyPower port v) s = .next (answered s .timeout 0 cs ds
          (writeTrace s.cfg port.toNat s.cfg.phy.pageReg s.cfg.phy.powerPage cp ++
           powerTrace s.cfg port.toNat v done ++ evs ++ evs')))) ∧
    (done.map (fun row => row.1) = s.cfg.phy.powerBits → WriteTimesOut s.cfg ctrl evs →
      s.env = .script (cp :: (done.flatMap (fun row => row.2.1.ctrl ++ [row.2.2]) ++ ctrl ++ cs))
        (done.map (fun row => row.2.1.data) ++ ds) →
      exec (.phyPower port v) s = .next (answered s .timeout 0 cs ds
        (writeTrace s.cfg port.toNat s.cfg.phy.pageReg s.cfg.phy.powerPage cp ++
         powerTrace s.cfg port.toNat v done ++ evs)))

/-- The ten commands' checks, each before any access, in the order Fail, NotSupported, BadParameter, then InvalidAddress
at the first transport operation (R235, R236, R250; 60_exceptions.md R275). -/
def Obligations.PortChecksInOrder : Prop :=
  ∀ (s : State) (port : BitVec 8) (v : Half), ∀ f ∈ portForms s.cfg port v,
    (s.ctx.valid = false → exec f.1 s = .next { s with response := some 0x00010000, seq := .idle }) ∧
    (s.ctx.valid = true → pcfgLegal s.cfg s.ctx.deviceId f.2.1 = false →
      exec f.1 s = .next { s with response := some 0x00050000, seq := .idle }) ∧
    (s.ctx.valid = true → pcfgLegal s.cfg s.ctx.deviceId f.2.1 = true → f.2.2.1 = false →
      exec f.1 s = .next { s with response := some 0x00040000, seq := .idle }) ∧
    (s.ctx.valid = true → pcfgLegal s.cfg s.ctx.deviceId f.2.1 = true → f.2.2.1 = true → s.cfg.bus.WF →
      32 ≤ f.2.2.2 → exec f.1 s = .next { s with response := some 0x00020000, seq := .idle })

/-! ## The whole machine -/

/-- Every step, and every step of R9's, keeps the invariant: a valid context has a supported identifier, a response is one
R86 allows, a wait or a running command is one the block can be in, no control word sets the busy or read-valid bit, and
ENV0's cells stay in canonical form. -/
def Obligations.InvariantKeptByEveryStep : Prop :=
  ∀ s t : State, s.cfg.WF → Inv s → step s = .next t ∨ accessStep s = .next t → Inv t

/-- The invariant holds at reset. -/
def Obligations.InvariantHoldsAtReset : Prop := State.reset.cfg.WF ∧ Inv State.reset

/-- Only CTX_INIT changes the Device Context, and a context it builds owes nothing to the old one (10_state.md R28). -/
def Obligations.ContextWrittenByCtxInitOnly : Prop :=
  (∀ (s t : State) (i : Instr), exec i s = .next t → i ≠ .ctxInit → t.ctx = s.ctx) ∧
  (∀ (s : State) (c : TableCmd) (ph : WaitPhase) (k : Nat), (resume c ph k s).ctx = s.ctx) ∧
  (∀ (s t : State) (ctx : Context), readE 0 s ∈ s.cfg.supportedIds →
    exec .ctxInit { s with ctx := ctx } = .next t → exec .ctxInit s = .next t)

/-- A command, and a step of its wait, leaves every operand register it does not name as a result unchanged
(10_state.md R21). -/
def Obligations.OperandRegistersFrame : Prop :=
  (∀ (s t : State) (i : Instr) (j : BitVec 4), exec i s = .next t → j ∉ writtenRegs s.cfg i → readE j t = readE j s) ∧
  (∀ (s : State) (c : TableCmd) (ph : WaitPhase) (k : Nat) (j : BitVec 4),
    j ∉ writtenRegs s.cfg (latchedCommand c) → readE j (resume c ph k s) = readE j s)

/-- A command, and a step of its wait, always ends in a next state, only adds to the history of accesses, and leaves the
configuration, the commands still to come and the reset input alone (20_memory.md R51, R60). -/
def Obligations.CommandFrame : Prop :=
  (∀ (s : State) (i : Instr), ∃ t, exec i s = .next t ∧ t.cfg = s.cfg ∧ t.commands = s.commands ∧
    t.resetIn = s.resetIn ∧ t.resets = s.resets ∧ s.history <+: t.history) ∧
  (∀ (s : State) (c : TableCmd) (ph : WaitPhase) (k : Nat),
    (resume c ph k s).cfg = s.cfg ∧ (resume c ph k s).commands = s.commands ∧
    (resume c ph k s).resetIn = s.resetIn ∧ (resume c ph k s).resets = s.resets ∧
    s.history <+: (resume c ph k s).history)

/-- Against ENV0, whose control words have the CFG0 layout whatever the configuration (log 18), a command and a step of its
wait change no cell but those its write control words name (20_memory.md R70). -/
def Obligations.Env0CellsFrame : Prop :=
  (∀ (s t : State) (i : Instr) (e : Env0), s.env = .env0 e → exec i s = .next t →
    ∃ e', t.env = .env0 e' ∧
      ∀ n, (∀ w, BusEvent.writeCtrl w ∈ t.history.drop s.history.length → env0WrittenCell w ≠ some n) →
        readCell e'.sw n = readCell e.sw n) ∧
  (∀ (s : State) (c : TableCmd) (ph : WaitPhase) (k : Nat) (e : Env0), s.env = .env0 e →
    ∃ e', (resume c ph k s).env = .env0 e' ∧
      ∀ n, (∀ w, BusEvent.writeCtrl w ∈ (resume c ph k s).history.drop s.history.length → env0WrittenCell w ≠ some n) →
        readCell e'.sw n = readCell e.sw n)

/-- Which statuses each command, run at once or after waiting, can answer, and that a failure's value is 0
(60_exceptions.md R273; 30_encoding.md R86). -/
def Obligations.AnswerStatuses : Prop :=
  (∀ (s t : State) (i : Instr) (rw : Word), s.cfg.bus.WF → i.wf = true → s.response = none →
    exec i s = .next t → t.response = some rw →
    ∃ st ∈ possibleStatuses s.cfg i, ∃ v, rw = responseWord st v ∧ (st ≠ .ok → v = 0)) ∧
  (∀ (s : State) (c : TableCmd) (ph : WaitPhase) (k : Nat) (rw : Word), s.cfg.bus.WF → s.response = none →
    (resume c ph k s).response = some rw →
    ∃ st ∈ possibleStatuses s.cfg (latchedCommand c), ∃ v, rw = responseWord st v ∧ (st ≠ .ok → v = 0))

/-- Every command that is no table command makes at most the accesses R312 counts for it (70_reset_and_hazards.md R312). -/
def Obligations.AccessesBounded : Prop :=
  ∀ (s t : State) (i : Instr) (b : Nat), accessBound s.cfg i = some b → exec i s = .next t →
    t.history.length ≤ s.history.length + b

/-- The bits the block ignores never matter: two states alike but for CTRL bits other than busy and read-valid and for
bits 31:16 of DATA stay alike under every step (41_bus_transport.md R132, R136, R137). -/
def Obligations.IgnoredBitsNeverMatter : Prop :=
  ∀ s s' t : State, SameSeen s s' → step s = .next t → ∃ t', step s' = .next t' ∧ SameSeen t t'
end

