-- ==== Sys2Proof/Laws/State.lean ====
section
/-! SUPPORT. The fields of the state after each named update: one lemma per field per update. -/

namespace Sys2Proof.Machine

/-! ## writeE -/

@[simp] theorem writeE_cfg (i : BitVec 4) (v : Half) (s : State) : (writeE i v s).cfg = s.cfg := rfl
@[simp] theorem writeE_e (i : BitVec 4) (v : Half) (s : State) : (writeE i v s).e = s.e.set i.toNat v i.isLt := rfl
@[simp] theorem writeE_ctx (i : BitVec 4) (v : Half) (s : State) : (writeE i v s).ctx = s.ctx := rfl
@[simp] theorem writeE_seq (i : BitVec 4) (v : Half) (s : State) : (writeE i v s).seq = s.seq := rfl
@[simp] theorem writeE_response (i : BitVec 4) (v : Half) (s : State) : (writeE i v s).response = s.response := rfl
@[simp] theorem writeE_history (i : BitVec 4) (v : Half) (s : State) : (writeE i v s).history = s.history := rfl
@[simp] theorem writeE_env (i : BitVec 4) (v : Half) (s : State) : (writeE i v s).env = s.env := rfl
@[simp] theorem writeE_draws (i : BitVec 4) (v : Half) (s : State) : (writeE i v s).draws = s.draws := rfl
@[simp] theorem writeE_commands (i : BitVec 4) (v : Half) (s : State) : (writeE i v s).commands = s.commands := rfl
@[simp] theorem writeE_resetIn (i : BitVec 4) (v : Half) (s : State) : (writeE i v s).resetIn = s.resetIn := rfl
@[simp] theorem writeE_resets (i : BitVec 4) (v : Half) (s : State) : (writeE i v s).resets = s.resets := rfl

/-! ## respond -/

@[simp] theorem respond_cfg (st : Status) (v : Half) (s : State) : (respond st v s).cfg = s.cfg := rfl
@[simp] theorem respond_e (st : Status) (v : Half) (s : State) : (respond st v s).e = s.e := rfl
@[simp] theorem respond_ctx (st : Status) (v : Half) (s : State) : (respond st v s).ctx = s.ctx := rfl
@[simp] theorem respond_seq (st : Status) (v : Half) (s : State) : (respond st v s).seq = .idle := rfl
@[simp] theorem respond_response (st : Status) (v : Half) (s : State) : (respond st v s).response = some (responseWord st v) := rfl
@[simp] theorem respond_history (st : Status) (v : Half) (s : State) : (respond st v s).history = s.history := rfl
@[simp] theorem respond_env (st : Status) (v : Half) (s : State) : (respond st v s).env = s.env := rfl
@[simp] theorem respond_draws (st : Status) (v : Half) (s : State) : (respond st v s).draws = s.draws := rfl
@[simp] theorem respond_commands (st : Status) (v : Half) (s : State) : (respond st v s).commands = s.commands := rfl
@[simp] theorem respond_resetIn (st : Status) (v : Half) (s : State) : (respond st v s).resetIn = s.resetIn := rfl
@[simp] theorem respond_resets (st : Status) (v : Half) (s : State) : (respond st v s).resets = s.resets := rfl

/-! ## raise -/

@[simp] theorem raise_cfg (st : Status) (s : State) : (raise st s).cfg = s.cfg := rfl
@[simp] theorem raise_e (st : Status) (s : State) : (raise st s).e = s.e := rfl
@[simp] theorem raise_ctx (st : Status) (s : State) : (raise st s).ctx = s.ctx := rfl
@[simp] theorem raise_seq (st : Status) (s : State) : (raise st s).seq = .idle := rfl
@[simp] theorem raise_response (st : Status) (s : State) : (raise st s).response = some (responseWord st 0) := rfl
@[simp] theorem raise_history (st : Status) (s : State) : (raise st s).history = s.history := rfl
@[simp] theorem raise_env (st : Status) (s : State) : (raise st s).env = s.env := rfl
@[simp] theorem raise_draws (st : Status) (s : State) : (raise st s).draws = s.draws := rfl
@[simp] theorem raise_commands (st : Status) (s : State) : (raise st s).commands = s.commands := rfl
@[simp] theorem raise_resetIn (st : Status) (s : State) : (raise st s).resetIn = s.resetIn := rfl
@[simp] theorem raise_resets (st : Status) (s : State) : (raise st s).resets = s.resets := rfl

/-! ## record -/

@[simp] theorem record_cfg (ev : BusEvent) (s : State) : (record ev s).cfg = s.cfg := rfl
@[simp] theorem record_e (ev : BusEvent) (s : State) : (record ev s).e = s.e := rfl
@[simp] theorem record_ctx (ev : BusEvent) (s : State) : (record ev s).ctx = s.ctx := rfl
@[simp] theorem record_seq (ev : BusEvent) (s : State) : (record ev s).seq = s.seq := rfl
@[simp] theorem record_response (ev : BusEvent) (s : State) : (record ev s).response = s.response := rfl
@[simp] theorem record_history (ev : BusEvent) (s : State) : (record ev s).history = s.history ++ [ev] := rfl
@[simp] theorem record_env (ev : BusEvent) (s : State) : (record ev s).env = s.env := rfl
@[simp] theorem record_draws (ev : BusEvent) (s : State) : (record ev s).draws = s.draws := rfl
@[simp] theorem record_commands (ev : BusEvent) (s : State) : (record ev s).commands = s.commands := rfl
@[simp] theorem record_resetIn (ev : BusEvent) (s : State) : (record ev s).resetIn = s.resetIn := rfl
@[simp] theorem record_resets (ev : BusEvent) (s : State) : (record ev s).resets = s.resets := rfl

/-! ## memWriteCtrl -/

@[simp] theorem memWriteCtrl_cfg (w : Word) (s : State) : (memWriteCtrl w s).cfg = s.cfg := rfl
@[simp] theorem memWriteCtrl_e (w : Word) (s : State) : (memWriteCtrl w s).e = s.e := rfl
@[simp] theorem memWriteCtrl_ctx (w : Word) (s : State) : (memWriteCtrl w s).ctx = s.ctx := rfl
@[simp] theorem memWriteCtrl_seq (w : Word) (s : State) : (memWriteCtrl w s).seq = s.seq := rfl
@[simp] theorem memWriteCtrl_response (w : Word) (s : State) : (memWriteCtrl w s).response = s.response := rfl
@[simp] theorem memWriteCtrl_history (w : Word) (s : State) : (memWriteCtrl w s).history = s.history ++ [.writeCtrl w] := rfl
@[simp] theorem memWriteCtrl_env (w : Word) (s : State) : (memWriteCtrl w s).env = absorb s.cfg w s.env := rfl
@[simp] theorem memWriteCtrl_draws (w : Word) (s : State) : (memWriteCtrl w s).draws = s.draws := rfl
@[simp] theorem memWriteCtrl_commands (w : Word) (s : State) : (memWriteCtrl w s).commands = s.commands := rfl
@[simp] theorem memWriteCtrl_resetIn (w : Word) (s : State) : (memWriteCtrl w s).resetIn = s.resetIn := rfl
@[simp] theorem memWriteCtrl_resets (w : Word) (s : State) : (memWriteCtrl w s).resets = s.resets := rfl

/-! ## resetBlock -/

@[simp] theorem resetBlock_cfg (s : State) : (resetBlock s).cfg = s.cfg := rfl
@[simp] theorem resetBlock_e (s : State) : (resetBlock s).e = resetOperands (s.resets + 1) := rfl
@[simp] theorem resetBlock_ctx (s : State) : (resetBlock s).ctx = resetContext (s.resets + 1) := rfl
@[simp] theorem resetBlock_seq (s : State) : (resetBlock s).seq = .idle := rfl
@[simp] theorem resetBlock_response (s : State) : (resetBlock s).response = none := rfl
@[simp] theorem resetBlock_history (s : State) : (resetBlock s).history = s.history := rfl
@[simp] theorem resetBlock_env (s : State) : (resetBlock s).env = s.env := rfl
@[simp] theorem resetBlock_draws (s : State) : (resetBlock s).draws = s.draws := rfl
@[simp] theorem resetBlock_commands (s : State) : (resetBlock s).commands = s.commands := rfl
@[simp] theorem resetBlock_resetIn (s : State) : (resetBlock s).resetIn = none := rfl
@[simp] theorem resetBlock_resets (s : State) : (resetBlock s).resets = s.resets + 1 := rfl

/-! ## acceptCommand -/

@[simp] theorem acceptCommand_cfg (rest : List Command) (s : State) : (acceptCommand rest s).cfg = s.cfg := rfl
@[simp] theorem acceptCommand_e (rest : List Command) (s : State) : (acceptCommand rest s).e = s.e := rfl
@[simp] theorem acceptCommand_ctx (rest : List Command) (s : State) : (acceptCommand rest s).ctx = s.ctx := rfl
@[simp] theorem acceptCommand_seq (rest : List Command) (s : State) : (acceptCommand rest s).seq = s.seq := rfl
@[simp] theorem acceptCommand_response (rest : List Command) (s : State) : (acceptCommand rest s).response = none := rfl
@[simp] theorem acceptCommand_history (rest : List Command) (s : State) : (acceptCommand rest s).history = s.history := rfl
@[simp] theorem acceptCommand_env (rest : List Command) (s : State) : (acceptCommand rest s).env = s.env := rfl
@[simp] theorem acceptCommand_draws (rest : List Command) (s : State) : (acceptCommand rest s).draws = s.draws := rfl
@[simp] theorem acceptCommand_commands (rest : List Command) (s : State) : (acceptCommand rest s).commands = rest := rfl
@[simp] theorem acceptCommand_resetIn (rest : List Command) (s : State) : (acceptCommand rest s).resetIn = s.resetIn := rfl
@[simp] theorem acceptCommand_resets (rest : List Command) (s : State) : (acceptCommand rest s).resets = s.resets := rfl

/-! ## presentCommand -/

@[simp] theorem presentCommand_cfg (w : Command) (s : State) : (presentCommand w s).cfg = s.cfg := rfl
@[simp] theorem presentCommand_e (w : Command) (s : State) : (presentCommand w s).e = s.e := rfl
@[simp] theorem presentCommand_ctx (w : Command) (s : State) : (presentCommand w s).ctx = s.ctx := rfl
@[simp] theorem presentCommand_seq (w : Command) (s : State) : (presentCommand w s).seq = .idle := rfl
@[simp] theorem presentCommand_response (w : Command) (s : State) : (presentCommand w s).response = s.response := rfl
@[simp] theorem presentCommand_history (w : Command) (s : State) : (presentCommand w s).history = s.history := rfl
@[simp] theorem presentCommand_env (w : Command) (s : State) : (presentCommand w s).env = s.env := rfl
@[simp] theorem presentCommand_draws (w : Command) (s : State) : (presentCommand w s).draws = s.draws := rfl
@[simp] theorem presentCommand_commands (w : Command) (s : State) : (presentCommand w s).commands = w :: s.commands := rfl
@[simp] theorem presentCommand_resetIn (w : Command) (s : State) : (presentCommand w s).resetIn = none := rfl
@[simp] theorem presentCommand_resets (w : Command) (s : State) : (presentCommand w s).resets = s.resets := rfl

/-! ## answerIllegal -/

@[simp] theorem answerIllegal_cfg (why : DecodeError) (s : State) : (answerIllegal why s).cfg = s.cfg := rfl
@[simp] theorem answerIllegal_e (why : DecodeError) (s : State) : (answerIllegal why s).e = s.e := rfl
@[simp] theorem answerIllegal_ctx (why : DecodeError) (s : State) : (answerIllegal why s).ctx = s.ctx := rfl
@[simp] theorem answerIllegal_seq (why : DecodeError) (s : State) : (answerIllegal why s).seq = .idle := rfl
@[simp] theorem answerIllegal_response (why : DecodeError) (s : State) : (answerIllegal why s).response = some (responseWord .badParameter 0) := rfl
@[simp] theorem answerIllegal_history (why : DecodeError) (s : State) : (answerIllegal why s).history = s.history := rfl
@[simp] theorem answerIllegal_env (why : DecodeError) (s : State) : (answerIllegal why s).env = s.env := rfl
@[simp] theorem answerIllegal_draws (why : DecodeError) (s : State) : (answerIllegal why s).draws = s.draws := rfl
@[simp] theorem answerIllegal_commands (why : DecodeError) (s : State) : (answerIllegal why s).commands = s.commands := rfl
@[simp] theorem answerIllegal_resetIn (why : DecodeError) (s : State) : (answerIllegal why s).resetIn = s.resetIn := rfl
@[simp] theorem answerIllegal_resets (why : DecodeError) (s : State) : (answerIllegal why s).resets = s.resets := rfl

/-! ## The context after reset -/

@[simp] theorem resetContext_valid (n : Nat) : (resetContext n).valid = false := rfl

/-! ## Operand registers -/

/-- A register reads back what was written to it (10_state.md R21). -/
@[simp] theorem readE_writeE_same (i : BitVec 4) (v : Half) (s : State) : readE i (writeE i v s) = v := by
  simp [readE, writeE]

/-- A write leaves every other register alone (10_state.md R21). -/
theorem readE_writeE_of_ne {i j : BitVec 4} (h : i ≠ j) (v : Half) (s : State) :
    readE j (writeE i v s) = readE j s := by
  have hne : i.toNat ≠ j.toNat := fun e => h (BitVec.eq_of_toNat_eq e)
  simp [readE, writeE, hne]

/-- Two states with the same operand registers read the same. -/
theorem readE_congr {s t : State} (h : t.e = s.e) (i : BitVec 4) : readE i t = readE i s := by
  simp [readE, h]

/-! ## Response words -/

@[simp] theorem responseCode_responseWord (st : Status) (v : Half) :
    responseCode (responseWord st v) = statusCode st := by
  apply BitVec.eq_of_getLsbD_eq
  intro i hi
  simp only [responseCode, responseWord, BitVec.getLsbD_extractLsb', BitVec.getLsbD_append]
  simp [hi, show ¬ (16 + i < 16) by omega, show 16 + i - 16 = i by omega]

@[simp] theorem responseValue_responseWord (st : Status) (v : Half) :
    responseValue (responseWord st v) = v := by
  apply BitVec.eq_of_getLsbD_eq
  intro i hi
  simp only [responseValue, responseWord, BitVec.getLsbD_extractLsb', BitVec.getLsbD_append]
  simp [hi]

/-- Statuses have distinct codes (30_encoding.md R87). -/
theorem statusCode_injective {a b : Status} (h : statusCode a = statusCode b) : a = b := by
  cases a <;> cases b <;> first | rfl | exact absurd h (by decide)

end Sys2Proof.Machine
end

