-- ==== Sys2Proof/Laws/Memory.lean ====
section
/-! SUPPORT. The cells of an environment: read after write, and the canonical form kept (20_memory.md R53, R70; log 9). -/

namespace Sys2Proof.Machine

/-- A cell reads back what was written to it. -/
theorem readCell_writeCell_same (m : Memory) (a : Nat) (v : Half) (h : Memory.wf m = true) :
    readCell (writeCell m a v) a = v := by
  induction m with
  | nil => simp only [writeCell]; split <;> simp_all [readCell]
  | cons c rest ih =>
    obtain ⟨b, u⟩ := c
    simp only [Memory.wf, Bool.and_eq_true, decide_eq_true_eq] at h
    have hlow : ∀ r : Memory, (∀ x ∈ r, a < x.1) → readCell r a = 0 := by
      intro r
      induction r with
      | nil => intro _; rfl
      | cons x xs ihx =>
        intro hx
        have := hx x (by simp)
        simp only [readCell]
        rw [if_neg (by omega)]
        exact ihx fun y hy => hx y (by simp [hy])
    have hrest : ∀ x ∈ rest, b < x.1 := by simpa using h.1.2
    simp only [writeCell]
    split
    · rename_i hlt
      split
      · rename_i hv
        subst hv
        exact hlow _ (by intro x hx; rcases List.mem_cons.1 hx with rfl | hx
                         · exact hlt
                         · exact lt_trans hlt (hrest x hx))
      · simp [readCell]
    · split
      · rename_i heq
        subst heq
        split
        · rename_i hv
          subst hv
          exact hlow _ hrest
        · simp [readCell]
      · rename_i hne
        simp only [readCell]
        rw [if_neg (fun e => hne e.symm)]
        exact ih h.2

/-- A write leaves every other cell alone. -/
theorem readCell_writeCell_of_ne (m : Memory) {a b : Nat} (v : Half) (h : b ≠ a) :
    readCell (writeCell m a v) b = readCell m b := by
  induction m with
  | nil => simp only [writeCell]; split <;> simp [readCell, Ne.symm h]
  | cons c rest ih =>
    obtain ⟨d, u⟩ := c
    simp only [writeCell]
    split
    · split <;> simp [readCell, Ne.symm h]
    · split
      · rename_i heq
        subst heq
        split <;> simp [readCell, Ne.symm h]
      · simp only [readCell, ih]

/-- Every cell a write leaves listed was listed, or is the one written. -/
theorem mem_writeCell {m : Memory} {a : Nat} {v : Half} {x : Nat × Half} (h : x ∈ writeCell m a v) :
    x ∈ m ∨ x.1 = a := by
  induction m with
  | nil => simp only [writeCell] at h; split at h <;> simp_all
  | cons c rest ih =>
    obtain ⟨d, u⟩ := c
    simp only [writeCell] at h
    split at h
    · split at h
      · exact .inl h
      · rcases List.mem_cons.1 h with rfl | h
        · exact .inr rfl
        · exact .inl h
    · split at h
      · split at h
        · exact .inl (List.mem_cons_of_mem _ h)
        · rcases List.mem_cons.1 h with rfl | h
          · exact .inr rfl
          · exact .inl (List.mem_cons_of_mem _ h)
      · rcases List.mem_cons.1 h with rfl | h
        · exact .inl (by simp)
        · rcases ih h with h | h
          · exact .inl (List.mem_cons_of_mem _ h)
          · exact .inr h

/-- A write keeps the canonical form. -/
theorem wf_writeCell {m : Memory} (a : Nat) (v : Half) (h : Memory.wf m = true) :
    Memory.wf (writeCell m a v) = true := by
  induction m with
  | nil => simp only [writeCell]; split <;> simp_all [Memory.wf]
  | cons c rest ih =>
    obtain ⟨d, u⟩ := c
    have h' := h
    simp only [Memory.wf, Bool.and_eq_true, decide_eq_true_eq, List.all_eq_true] at h'
    obtain ⟨⟨hu, hrest⟩, hwf⟩ := h'
    simp only [writeCell]
    split
    · rename_i hlt
      split
      · exact h
      · rename_i hv
        simp only [Memory.wf, Bool.and_eq_true, decide_eq_true_eq, List.all_eq_true]
        refine ⟨⟨hv, fun x hx => ?_⟩, ⟨hu, hrest⟩, hwf⟩
        rcases List.mem_cons.1 hx with rfl | hx
        · exact hlt
        · exact lt_trans hlt (hrest x hx)
    · rename_i hge
      split
      · rename_i heq
        subst heq
        split
        · exact hwf
        · rename_i hv
          simp only [Memory.wf, Bool.and_eq_true, decide_eq_true_eq, List.all_eq_true]
          exact ⟨⟨hv, hrest⟩, hwf⟩
      · rename_i hne
        simp only [Memory.wf, Bool.and_eq_true, decide_eq_true_eq, List.all_eq_true]
        refine ⟨⟨hu, fun x hx => ?_⟩, ih hwf⟩
        rcases mem_writeCell hx with hx | hx
        · exact hrest x hx
        · omega

/-- A command to ENV0 keeps its cells in canonical form. -/
theorem wf_env0Command (cfg : Config) (w : Word) {e : Env0} (h : Memory.wf e.sw = true) :
    Memory.wf (env0Command cfg w e).sw = true := by
  unfold env0Command
  split
  · unfold env0Read
    simp only
    split
    · exact h
    · split <;> exact h
  · unfold env0Write
    simp only
    split
    · split <;> exact wf_writeCell _ _ h
    · split
      · split <;> exact wf_writeCell _ _ h
      · exact wf_writeCell _ _ h

/-- A write of CTRL keeps the environment's cells in canonical form. -/
theorem cellsCanonical_absorb (cfg : Config) (w : Word) {env : Environment} (h : cellsCanonical env) :
    cellsCanonical (absorb cfg w env) := by
  cases env with
  | script _ _ => exact h
  | env0 e => exact wf_env0Command cfg w h

/-- Nothing is listed at reset, so the form holds there. -/
theorem cellsCanonical_reset : cellsCanonical State.reset.env := trivial

end Sys2Proof.Machine
end

