-- ==== Sys2Proof/Laws/Bus.lean ====
section
/-! SUPPORT. What the Bus Transport's operations can do: the frame of each (`BusOnly`), and their runs on a scripted
environment (41_bus_transport.md R131 to R137). -/

namespace Sys2Proof.Machine

/-! ## The frame of a piece that only touches the bus -/

theorem BusOnly.refl (s : State) : BusOnly s s :=
  ⟨rfl, rfl, rfl, rfl, rfl, rfl, rfl, rfl, List.prefix_rfl⟩

theorem BusOnly.trans {s t u : State} (h : BusOnly s t) (k : BusOnly t u) : BusOnly s u :=
  ⟨k.cfg.trans h.cfg, k.e.trans h.e, k.ctx.trans h.ctx, k.seq.trans h.seq, k.response.trans h.response,
   k.commands.trans h.commands, k.resetIn.trans h.resetIn, k.resets.trans h.resets, h.history.trans k.history⟩

theorem busOnly_record (ev : BusEvent) (s : State) : BusOnly s (record ev s) :=
  ⟨rfl, rfl, rfl, rfl, rfl, rfl, rfl, rfl, List.prefix_append _ _⟩

/-- A read of CTRL moves the bus side only. -/
theorem busOnly_memReadCtrl (s : State) : BusOnly s (memReadCtrl s).2 := by
  unfold memReadCtrl
  split <;> exact ⟨rfl, rfl, rfl, rfl, rfl, rfl, rfl, rfl, List.prefix_append _ _⟩

/-- A read of DATA moves the bus side only. -/
theorem busOnly_memReadData (s : State) : BusOnly s (memReadData s).2 := by
  unfold memReadData
  split <;> exact ⟨rfl, rfl, rfl, rfl, rfl, rfl, rfl, rfl, List.prefix_append _ _⟩

/-- A write of CTRL moves the bus side only. -/
theorem busOnly_memWriteCtrl (w : Word) (s : State) : BusOnly s (memWriteCtrl w s) :=
  ⟨rfl, rfl, rfl, rfl, rfl, rfl, rfl, rfl, List.prefix_append _ _⟩

/-- A read of CTRL records what it returned (20_memory.md R51). -/
theorem memReadCtrl_history (s : State) :
    (memReadCtrl s).2.history = s.history ++ [.readCtrl (memReadCtrl s).1] := by
  unfold memReadCtrl; split <;> rfl

/-- A read of DATA records what it returned (20_memory.md R51). -/
theorem memReadData_history (s : State) :
    (memReadData s).2.history = s.history ++ [.readData (memReadData s).1] := by
  unfold memReadData; split <;> rfl

/-- A piece of a command that moves the bus side only. -/
def BusPiece {α : Type} (m : Bus α) : Prop := ∀ s, BusOnly s (m s).2

@[simp] theorem andThen_of_ok {α β : Type} {m : Bus α} {k : α → Bus β} {s t : State} {a : α}
    (h : m s = (.ok a, t)) : andThen m k s = k a t := by
  simp [andThen, h]

@[simp] theorem andThen_of_error {α β : Type} {m : Bus α} {k : α → Bus β} {s t : State} {st : Status}
    (h : m s = (.error st, t)) : andThen m k s = (.error st, t) := by
  simp [andThen, h]

/-- What `andThen` can do: the first piece failed, or the second ran from where it ended. -/
theorem andThen_cases {α β : Type} (m : Bus α) (k : α → Bus β) (s : State) :
    (∃ st t, m s = (.error st, t) ∧ andThen m k s = (.error st, t)) ∨
    (∃ a t, m s = (.ok a, t) ∧ andThen m k s = k a t) := by
  match h : m s with
  | (.error st, t) => exact .inl ⟨st, t, rfl, andThen_of_error h⟩
  | (.ok a, t) => exact .inr ⟨a, t, rfl, andThen_of_ok h⟩

/-- Issuing a control word never fails (R135). -/
theorem andThen_issue {β : Type} (f : State → Word) (k : Unit → Bus β) (s : State) :
    andThen (fun s => issue (f s) s) k s = k () (memWriteCtrl (f s) s) := rfl

theorem busPiece_give {α : Type} (a : α) : BusPiece (give a) := fun s => BusOnly.refl s

theorem BusPiece.andThen {α β : Type} {m : Bus α} {k : α → Bus β} (hm : BusPiece m) (hk : ∀ a, BusPiece (k a)) :
    BusPiece (andThen m k) := by
  intro s
  rcases andThen_cases m k s with ⟨st, t, h, e⟩ | ⟨a, t, h, e⟩
  · have := hm s; rw [h] at this; rw [e]; exact this
  · have := hm s; rw [h] at this; rw [e]; exact this.trans (hk a t)

/-! ## The transport operations -/

theorem busPiece_pollBusyFrom (n : Nat) : BusPiece (pollBusyFrom n) := by
  induction n with
  | zero => exact fun s => BusOnly.refl s
  | succ n ih =>
    intro s
    unfold pollBusyFrom
    split
    · exact (busOnly_memReadCtrl s).trans (ih _)
    · exact busOnly_memReadCtrl s

theorem busPiece_pollValidFrom (n : Nat) : BusPiece (pollValidFrom n) := by
  induction n with
  | zero => exact fun s => BusOnly.refl s
  | succ n ih =>
    intro s
    unfold pollValidFrom
    split
    · exact busOnly_memReadCtrl s
    · exact (busOnly_memReadCtrl s).trans (ih _)

theorem busPiece_pollBusy : BusPiece pollBusy := fun s => busPiece_pollBusyFrom _ s

theorem busPiece_pollValid : BusPiece pollValid := fun s => busPiece_pollValidFrom _ s

theorem busPiece_issue (w : Word) : BusPiece (issue w) := fun s => busOnly_memWriteCtrl w s

theorem busPiece_fetchData : BusPiece fetchData := fun s => busOnly_memReadData s

theorem busPiece_checkAddress (dev : Nat) : BusPiece (checkAddress dev) := by
  intro s
  unfold checkAddress
  split <;> exact BusOnly.refl s

/-- A `SmiRead` moves the bus side only (R133). -/
theorem busPiece_smiRead (dev : Nat) (reg : RegNum) : BusPiece (smiRead dev reg) :=
  (busPiece_checkAddress dev).andThen fun _ => busPiece_pollBusy.andThen fun _ =>
    BusPiece.andThen (fun s => busPiece_issue _ s) fun _ => busPiece_pollValid.andThen fun _ => busPiece_fetchData

/-- A `SmiWrite` moves the bus side only (R134). -/
theorem busPiece_smiWrite (dev : Nat) (reg : RegNum) (v : Half) : BusPiece (smiWrite dev reg v) :=
  (busPiece_checkAddress dev).andThen fun _ => busPiece_pollBusy.andThen fun _ => fun s => busPiece_issue _ s

/-- A field write moves the bus side only (42_field_codec.md R151). -/
theorem busPiece_writeField (dev : Nat) (reg : RegNum) (off : BitVec 4) (len : BitVec 5) (val : Half) :
    BusPiece (writeField dev reg off len val) :=
  (busPiece_smiRead dev reg).andThen fun _ => busPiece_smiWrite dev reg _

/-! ## The statuses a transport operation can give (R130) -/

theorem pollBusyFrom_error {n : Nat} {s t : State} {st : Status} (h : pollBusyFrom n s = (.error st, t)) :
    st = .timeout := by
  induction n generalizing s with
  | zero => simp [pollBusyFrom] at h; exact h.1.symm
  | succ n ih =>
    unfold pollBusyFrom at h
    split at h
    · exact ih h
    · simp at h

theorem pollValidFrom_error {n : Nat} {s t : State} {st : Status} (h : pollValidFrom n s = (.error st, t)) :
    st = .timeout := by
  induction n generalizing s with
  | zero => simp [pollValidFrom] at h; exact h.1.symm
  | succ n ih =>
    unfold pollValidFrom at h
    split at h
    · simp at h
    · exact ih h

theorem checkAddress_error {dev : Nat} {s t : State} {st : Status} (h : checkAddress dev s = (.error st, t)) :
    st = .invalidAddress ∧ t = s ∧ addressLegal s.cfg dev = false := by
  unfold checkAddress at h
  split at h
  · simp at h
  · rename_i hl
    simp only [Prod.mk.injEq, Except.error.injEq] at h
    exact ⟨h.1.symm, h.2.symm, by simpa using hl⟩

theorem checkAddress_ok {dev : Nat} {s t : State} (h : checkAddress dev s = (.ok (), t)) :
    t = s ∧ addressLegal s.cfg dev = true := by
  unfold checkAddress at h
  split at h
  · rename_i hl
    simp only [Prod.mk.injEq] at h
    exact ⟨h.2.symm, hl⟩
  · simp at h

/-- A failing `SmiRead` failed on the address, with nothing done, or timed out (R130, R131, R133). -/
theorem smiRead_error {dev : Nat} {reg : RegNum} {s t : State} {st : Status} (h : smiRead dev reg s = (.error st, t)) :
    (st = .invalidAddress ∧ t = s ∧ addressLegal s.cfg dev = false) ∨ st = .timeout := by
  unfold smiRead at h
  rcases andThen_cases (checkAddress dev) _ s with ⟨st', t', h1, e⟩ | ⟨_, t', h1, e⟩
  · rw [e] at h
    simp only [Prod.mk.injEq, Except.error.injEq] at h
    rw [← h.1, ← h.2]
    exact .inl (checkAddress_error h1)
  · rw [e] at h
    refine .inr ?_
    rcases andThen_cases pollBusy _ t' with ⟨st', t2, h2, e⟩ | ⟨_, t2, h2, e⟩
    · rw [e] at h
      simp only [Prod.mk.injEq, Except.error.injEq] at h
      rw [← h.1]
      exact pollBusyFrom_error h2
    · rw [e] at h
      rw [andThen_issue] at h
      rcases andThen_cases pollValid _ (memWriteCtrl (cwRead t2.cfg dev reg) t2) with ⟨st', t3, h3, e⟩ | ⟨_, t3, h3, e⟩
      · rw [e] at h
        simp only [Prod.mk.injEq, Except.error.injEq] at h
        rw [← h.1]
        exact pollValidFrom_error h3
      · rw [e] at h
        simp [fetchData] at h

/-- A failing `SmiWrite` failed on the address, with nothing done, or timed out (R130, R131, R134). -/
theorem smiWrite_error {dev : Nat} {reg : RegNum} {v : Half} {s t : State} {st : Status}
    (h : smiWrite dev reg v s = (.error st, t)) :
    (st = .invalidAddress ∧ t = s ∧ addressLegal s.cfg dev = false) ∨ st = .timeout := by
  unfold smiWrite at h
  rcases andThen_cases (checkAddress dev) _ s with ⟨st', t', h1, e⟩ | ⟨_, t', h1, e⟩
  · rw [e] at h
    simp only [Prod.mk.injEq, Except.error.injEq] at h
    rw [← h.1, ← h.2]
    exact .inl (checkAddress_error h1)
  · rw [e] at h
    refine .inr ?_
    rcases andThen_cases pollBusy _ t' with ⟨st', t2, h2, e⟩ | ⟨_, t2, h2, e⟩
    · rw [e] at h
      simp only [Prod.mk.injEq, Except.error.injEq] at h
      rw [← h.1]
      exact pollBusyFrom_error h2
    · rw [e] at h
      simp [issue] at h

/-! ## The address check -/

/-- With DEV_MASK the shifted 5-bit mask, the check is `dev < 32` (R131). -/
theorem addressLegal_eq {cfg : Config} (h : cfg.bus.WF) (dev : Nat) :
    addressLegal cfg dev = decide (dev < 32) := by
  unfold addressLegal
  rw [h.devMask_eq, ← Nat.shiftLeft_eq, ← Nat.shiftLeft_and_distrib, Nat.shiftLeft_eq, Nat.shiftLeft_eq]
  have hp : 0 < 2 ^ cfg.bus.devShift := Nat.two_pow_pos _
  have h31 : dev &&& 31 = dev % 32 := Nat.and_two_pow_sub_one_eq_mod dev 5
  rw [h31]
  congr 1
  simp only [eq_iff_iff]
  constructor
  · intro e
    have := Nat.eq_of_mul_eq_mul_right hp e
    omega
  · intro hd
    rw [Nat.mod_eq_of_lt hd]

/-! ## Runs on a scripted environment -/

@[simp] theorem busMoved_cfg (s : State) (c d : List Word) (evs : List BusEvent) : (busMoved s c d evs).cfg = s.cfg := rfl
@[simp] theorem busMoved_e (s : State) (c d : List Word) (evs : List BusEvent) : (busMoved s c d evs).e = s.e := rfl
@[simp] theorem busMoved_ctx (s : State) (c d : List Word) (evs : List BusEvent) : (busMoved s c d evs).ctx = s.ctx := rfl
@[simp] theorem busMoved_seq (s : State) (c d : List Word) (evs : List BusEvent) : (busMoved s c d evs).seq = s.seq := rfl
@[simp] theorem busMoved_env (s : State) (c d : List Word) (evs : List BusEvent) :
    (busMoved s c d evs).env = .script c d := rfl
@[simp] theorem busMoved_history (s : State) (c d : List Word) (evs : List BusEvent) :
    (busMoved s c d evs).history = s.history ++ evs := rfl
@[simp] theorem readE_busMoved (i : BitVec 4) (s : State) (c d : List Word) (evs : List BusEvent) :
    readE i (busMoved s c d evs) = readE i s := rfl

@[simp] theorem busMoved_busMoved (s : State) (c d c' d' : List Word) (evs evs' : List BusEvent) :
    busMoved (busMoved s c d evs) c' d' evs' = busMoved s c' d' (evs ++ evs') := by
  simp [busMoved, List.append_assoc]

/-- Reading CTRL from a script. -/
theorem memReadCtrl_script {s : State} {c : Word} {cs ds : List Word} (h : s.env = .script (c :: cs) ds) :
    memReadCtrl s = (c, busMoved s cs ds [.readCtrl c]) := by
  simp [memReadCtrl, h, busMoved, record]

/-- Reading DATA from a script. -/
theorem memReadData_script {s : State} {d : Word} {cs ds : List Word} (h : s.env = .script cs (d :: ds)) :
    memReadData s = (d, busMoved s cs ds [.readData d]) := by
  simp [memReadData, h, busMoved, record]

/-- Writing CTRL leaves a script as it is (20_memory.md R71). -/
theorem memWriteCtrl_script {s : State} {cs ds : List Word} (w : Word) (h : s.env = .script cs ds) :
    memWriteCtrl w s = busMoved s cs ds [.writeCtrl w] := by
  simp [memWriteCtrl, h, busMoved, record, absorb]

/-- The busy poll goes past busy answers to the first clear one (R132). -/
theorem pollBusyFrom_script {n : Nat} {s : State} {busy : List Word} {c : Word} {cs ds : List Word}
    (hb : ∀ x ∈ busy, x.getLsbD s.cfg.bus.busyBit = true) (hn : busy.length < n)
    (hc : c.getLsbD s.cfg.bus.busyBit = false) (h : s.env = .script (busy ++ c :: cs) ds) :
    pollBusyFrom n s = (.ok (), busMoved s cs ds (busy.map .readCtrl ++ [.readCtrl c])) := by
  induction busy generalizing n s with
  | nil =>
    obtain ⟨n, rfl⟩ : ∃ m, n = m + 1 := ⟨n - 1, by simp at hn; omega⟩
    simp only [List.nil_append] at h
    simp [pollBusyFrom, memReadCtrl_script h, hc]
  | cons b busy ih =>
    obtain ⟨n, rfl⟩ : ∃ m, n = m + 1 := ⟨n - 1, by simp at hn; omega⟩
    simp only [List.cons_append] at h
    rw [pollBusyFrom, memReadCtrl_script h, if_pos (hb b (by simp)),
      ih (s := busMoved s (busy ++ c :: cs) ds [.readCtrl b]) (fun x hx => hb x (by simp [hx]))
        (by simpa using hn) hc rfl]
    simp

/-- The busy poll gives up after as many busy answers as it has reads (R132). -/
theorem pollBusyFrom_script_timeout {s : State} {busy cs ds : List Word}
    (hb : ∀ x ∈ busy, x.getLsbD s.cfg.bus.busyBit = true) (h : s.env = .script (busy ++ cs) ds) :
    pollBusyFrom busy.length s = (.error .timeout, busMoved s cs ds (busy.map .readCtrl)) := by
  induction busy generalizing s with
  | nil =>
    simp only [List.nil_append] at h
    cases s
    simp_all [pollBusyFrom, busMoved]
  | cons b busy ih =>
    simp only [List.cons_append] at h
    rw [List.length_cons, pollBusyFrom, memReadCtrl_script h, if_pos (hb b (by simp)),
      ih (s := busMoved s (busy ++ cs) ds [.readCtrl b]) (fun x hx => hb x (by simp [hx])) rfl]
    simp

/-- The read-valid poll goes past answers without read-valid to the first with it (R136). -/
theorem pollValidFrom_script {n : Nat} {s : State} {late : List Word} {v : Word} {cs ds : List Word}
    (hb : ∀ x ∈ late, x.getLsbD s.cfg.bus.rvalidBit = false) (hn : late.length < n)
    (hv : v.getLsbD s.cfg.bus.rvalidBit = true) (h : s.env = .script (late ++ v :: cs) ds) :
    pollValidFrom n s = (.ok (), busMoved s cs ds (late.map .readCtrl ++ [.readCtrl v])) := by
  induction late generalizing n s with
  | nil =>
    obtain ⟨n, rfl⟩ : ∃ m, n = m + 1 := ⟨n - 1, by simp at hn; omega⟩
    simp only [List.nil_append] at h
    simp [pollValidFrom, memReadCtrl_script h, hv]
  | cons b late ih =>
    obtain ⟨n, rfl⟩ : ∃ m, n = m + 1 := ⟨n - 1, by simp at hn; omega⟩
    simp only [List.cons_append] at h
    rw [pollValidFrom, memReadCtrl_script h, if_neg (by simp [hb b (by simp)]),
      ih (s := busMoved s (late ++ v :: cs) ds [.readCtrl b]) (fun x hx => hb x (by simp [hx]))
        (by simpa using hn) hv rfl]
    simp

/-- The read-valid poll gives up after as many answers without read-valid as it has reads (R136). -/
theorem pollValidFrom_script_timeout {s : State} {late cs ds : List Word}
    (hb : ∀ x ∈ late, x.getLsbD s.cfg.bus.rvalidBit = false) (h : s.env = .script (late ++ cs) ds) :
    pollValidFrom late.length s = (.error .timeout, busMoved s cs ds (late.map .readCtrl)) := by
  induction late generalizing s with
  | nil =>
    simp only [List.nil_append] at h
    cases s
    simp_all [pollValidFrom, busMoved]
  | cons b late ih =>
    simp only [List.cons_append] at h
    rw [List.length_cons, pollValidFrom, memReadCtrl_script h, if_neg (by simp [hb b (by simp)]),
      ih (s := busMoved s (late ++ cs) ds [.readCtrl b]) (fun x hx => hb x (by simp [hx])) rfl]
    simp

end Sys2Proof.Machine
end

