-- ==== Sys2Proof/Laws/Config.lean ====
section
/-! SUPPORT. CFG0 meets the constraints of 00_scope.md R7. -/

namespace Sys2Proof.Machine

/-- The control-word layout of CFG0 (41_bus_transport.md R135). -/
theorem bus0_wf : bus0.WF where
  devMask_eq := by decide
  dev_low := by decide
  dev_high := by decide
  reg_low := by decide
  reg_high := by decide
  dev_reg := by decide
  rvalid_low := by decide
  rvalid_high := by decide
  busy_low := by decide
  busy_high := by decide
  busy_rvalid := by decide
  rvalid_dev := by decide
  rvalid_reg := by decide
  busy_dev := by decide
  busy_reg := by decide
  opc_ne := by decide
  opc_data := by decide
  opc_dev := by decide
  opc_reg := by decide
  opc_busy := by decide
  opc_rvalid := by decide
  busyPoll_pos := by decide
  rvalidPoll_larger := by decide

/-- CFG0 is a legal configuration (00_scope.md R7). -/
theorem cfg0_wf : cfg0.WF where
  bus := bus0_wf
  map := ⟨by decide, by decide, by decide, by decide, by intro k h; exact absurd h (by simp [cfg0, map0])⟩
  atu := ⟨by decide, by decide, by decide, by decide, by decide, by decide, by decide,
    by intro t h; exact absurd h (by simp [cfg0, atu0]), by decide⟩
  pvt := ⟨by decide, by decide, by decide, by decide⟩
  port := ⟨by decide⟩
  power_fits := by decide
  bound_pos := by intro b h; exact absurd h (by simp [cfg0])

end Sys2Proof.Machine
end

