-- ==== Sys2Proof/Laws/Decode.lean ====
section
/-! SUPPORT. The fields of a packed command word, and what the two masks of the decoder say of them. -/

namespace Sys2Proof

/-- Concatenations of the same shape are combined part by part. -/
theorem append_and_append' {m n : Nat} (x x' : BitVec m) (y y' : BitVec n) :
    (x ++ y) &&& (x' ++ y') = (x &&& x') ++ (y &&& y') := by
  apply BitVec.eq_of_getLsbD_eq
  intro i _
  simp only [BitVec.getLsbD_and, BitVec.getLsbD_append]
  split <;> rfl

section Pack
variable (op a : BitVec 8) (k : BitVec 3) (r len : BitVec 5) (off idx : BitVec 4) (v : Half)

@[simp] theorem fieldOp_packCommand : fieldOp (packCommand op a k r len off idx v) = op := by
  apply BitVec.eq_of_getLsbD_eq
  intro i hi
  simp only [fieldOp, packCommand, BitVec.getLsbD_extractLsb', BitVec.getLsbD_append, hi, decide_true, Bool.true_and]
  repeat rw [if_neg (by omega)]
  congr 1
  omega

@[simp] theorem fieldA_packCommand : fieldA (packCommand op a k r len off idx v) = a := by
  apply BitVec.eq_of_getLsbD_eq
  intro i hi
  simp only [fieldA, packCommand, BitVec.getLsbD_extractLsb', BitVec.getLsbD_append, hi, decide_true, Bool.true_and]
  repeat (first | rw [if_neg (by omega)] | rw [if_pos (by omega)])
  congr 1
  try omega

@[simp] theorem fieldK_packCommand : fieldK (packCommand op a k r len off idx v) = k := by
  apply BitVec.eq_of_getLsbD_eq
  intro i hi
  simp only [fieldK, packCommand, BitVec.getLsbD_extractLsb', BitVec.getLsbD_append, hi, decide_true, Bool.true_and]
  repeat (first | rw [if_neg (by omega)] | rw [if_pos (by omega)])
  congr 1
  try omega

@[simp] theorem fieldR_packCommand : fieldR (packCommand op a k r len off idx v) = r := by
  apply BitVec.eq_of_getLsbD_eq
  intro i hi
  simp only [fieldR, packCommand, BitVec.getLsbD_extractLsb', BitVec.getLsbD_append, hi, decide_true, Bool.true_and]
  repeat (first | rw [if_neg (by omega)] | rw [if_pos (by omega)])
  congr 1
  try omega

@[simp] theorem fieldLen_packCommand : fieldLen (packCommand op a k r len off idx v) = len := by
  apply BitVec.eq_of_getLsbD_eq
  intro i hi
  simp only [fieldLen, packCommand, BitVec.getLsbD_extractLsb', BitVec.getLsbD_append, hi, decide_true, Bool.true_and]
  repeat (first | rw [if_neg (by omega)] | rw [if_pos (by omega)])
  congr 1
  try omega

@[simp] theorem fieldOff_packCommand : fieldOff (packCommand op a k r len off idx v) = off := by
  apply BitVec.eq_of_getLsbD_eq
  intro i hi
  simp only [fieldOff, packCommand, BitVec.getLsbD_extractLsb', BitVec.getLsbD_append, hi, decide_true, Bool.true_and]
  repeat (first | rw [if_neg (by omega)] | rw [if_pos (by omega)])
  congr 1
  try omega

@[simp] theorem fieldIdx_packCommand : fieldIdx (packCommand op a k r len off idx v) = idx := by
  apply BitVec.eq_of_getLsbD_eq
  intro i hi
  simp only [fieldIdx, packCommand, BitVec.getLsbD_extractLsb', BitVec.getLsbD_append, hi, decide_true, Bool.true_and]
  repeat (first | rw [if_neg (by omega)] | rw [if_pos (by omega)])
  congr 1
  try omega

@[simp] theorem fieldV_packCommand : fieldV (packCommand op a k r len off idx v) = v := by
  apply BitVec.eq_of_getLsbD_eq
  intro i hi
  simp only [fieldV, packCommand, BitVec.getLsbD_extractLsb', BitVec.getLsbD_append, hi, decide_true, Bool.true_and]
  repeat (first | rw [if_neg (by omega)] | rw [if_pos (by omega)])
  congr 1
  try omega

/-- A packed word has its reserved fields zero (30_encoding.md R81). -/
@[simp] theorem packCommand_and_reservedMask : packCommand op a k r len off idx v &&& reservedMask = 0 := by
  apply BitVec.eq_of_getLsbD_eq
  intro i hi
  simp only [packCommand, BitVec.getLsbD_and, BitVec.getLsbD_append, reservedMask, BitVec.getLsbD_zero]
  interval_cases i <;> simp

/-- Packed words are combined field by field. -/
theorem packCommand_and (op' a' : BitVec 8) (k' : BitVec 3) (r' len' : BitVec 5) (off' idx' : BitVec 4) (v' : Half) :
    packCommand op a k r len off idx v &&& packCommand op' a' k' r' len' off' idx' v' =
      packCommand (op &&& op') (a &&& a') (k &&& k') (r &&& r') (len &&& len') (off &&& off') (idx &&& idx')
        (v &&& v') := by
  unfold packCommand
  change (op ++ a ++ k ++ r ++ 0#3 ++ len ++ 0#4 ++ off ++ 0#4 ++ idx ++ v) &&&
    (op' ++ a' ++ k' ++ r' ++ 0#3 ++ len' ++ 0#4 ++ off' ++ 0#4 ++ idx' ++ v') = _
  simp only [append_and_append', BitVec.and_self]

end Pack

/-- The mask of a format's unused fields, field by field (30_encoding.md R82). -/
theorem unusedMask_eq_pack (f : CmdFormat) :
    unusedMask f = packCommand 0 (if f.a then 0 else 0xFF) (if f.k then 0 else 7) (if f.r then 0 else 0x1F)
      (if f.len then 0 else 0x1F) (if f.off then 0 else 0xF) (if f.idx then 0 else 0xF) (if f.v then 0 else 0xFFFF) := by
  obtain ⟨a, k, r, len, off, idx, v⟩ := f
  cases a <;> cases k <;> cases r <;> cases len <;> cases off <;> cases idx <;> cases v <;> decide

/-- A packed word is zero exactly when every field is. -/
theorem packCommand_eq_zero {op a : BitVec 8} {k : BitVec 3} {r len : BitVec 5} {off idx : BitVec 4} {v : Half} :
    packCommand op a k r len off idx v = 0 ↔
      op = 0 ∧ a = 0 ∧ k = 0 ∧ r = 0 ∧ len = 0 ∧ off = 0 ∧ idx = 0 ∧ v = 0 := by
  constructor
  · intro h
    refine ⟨?_, ?_, ?_, ?_, ?_, ?_, ?_, ?_⟩
    · rw [← fieldOp_packCommand op a k r len off idx v, h]; rfl
    · rw [← fieldA_packCommand op a k r len off idx v, h]; rfl
    · rw [← fieldK_packCommand op a k r len off idx v, h]; rfl
    · rw [← fieldR_packCommand op a k r len off idx v, h]; rfl
    · rw [← fieldLen_packCommand op a k r len off idx v, h]; rfl
    · rw [← fieldOff_packCommand op a k r len off idx v, h]; rfl
    · rw [← fieldIdx_packCommand op a k r len off idx v, h]; rfl
    · rw [← fieldV_packCommand op a k r len off idx v, h]; rfl
  · rintro ⟨rfl, rfl, rfl, rfl, rfl, rfl, rfl, rfl⟩
    decide

/-- A word whose reserved fields are zero is packed from its fields (30_encoding.md R81). -/
theorem packCommand_fields {w : Command} (h : w &&& reservedMask = 0) :
    packCommand (fieldOp w) (fieldA w) (fieldK w) (fieldR w) (fieldLen w) (fieldOff w) (fieldIdx w) (fieldV w) = w := by
  apply BitVec.eq_of_getLsbD_eq
  intro i hi
  have hz : (w &&& reservedMask).getLsbD i = false := by rw [h]; simp
  simp only [packCommand, BitVec.getLsbD_append, fieldOp, fieldA, fieldK, fieldR, fieldLen, fieldOff, fieldIdx, fieldV,
    BitVec.getLsbD_extractLsb']
  rw [BitVec.getLsbD_and] at hz
  interval_cases i <;> simp_all [reservedMask]

/-- The fields a format does not use are zero exactly when the decoder's second mask finds nothing
(30_encoding.md R82, R88). -/
theorem and_unusedMask_eq_zero {w : Command} (h : w &&& reservedMask = 0) (f : CmdFormat) :
    w &&& unusedMask f = 0 ↔
      (f.a = false → fieldA w = 0) ∧ (f.k = false → fieldK w = 0) ∧ (f.r = false → fieldR w = 0) ∧
      (f.len = false → fieldLen w = 0) ∧ (f.off = false → fieldOff w = 0) ∧ (f.idx = false → fieldIdx w = 0) ∧
      (f.v = false → fieldV w = 0) := by
  conv_lhs => rw [← packCommand_fields h, unusedMask_eq_pack, packCommand_and, packCommand_eq_zero]
  obtain ⟨a, k, r, len, off, idx, v⟩ := f
  have h8 : ∀ x : BitVec 8, x &&& 0xFF = x := fun x => BitVec.and_allOnes
  have h3 : ∀ x : BitVec 3, x &&& 7 = x := fun x => BitVec.and_allOnes
  have h5 : ∀ x : BitVec 5, x &&& 0x1F = x := fun x => BitVec.and_allOnes
  have h4 : ∀ x : BitVec 4, x &&& 0xF = x := fun x => BitVec.and_allOnes
  have h16 : ∀ x : BitVec 16, x &&& 0xFFFF = x := fun x => BitVec.and_allOnes
  simp only [apply_ite, h8, h3, h5, h4, h16]
  cases a <;> cases k <;> cases r <;> cases len <;> cases off <;> cases idx <;> cases v <;> simp

/-- What the checks of the decoder let through (30_encoding.md R88). -/
theorem checkedAs_eq_ok {w : Command} {f : CmdFormat} {i j : Instr} :
    checkedAs w f i = .ok j ↔ w &&& reservedMask = 0 ∧ w &&& unusedMask f = 0 ∧ i = j := by
  unfold checkedAs
  split
  · rename_i h
    exact ⟨fun e => by simp at e, fun e => absurd e.1 h⟩
  · rename_i h
    split
    · rename_i h'
      exact ⟨fun e => by simp at e, fun e => absurd e.2.1 h'⟩
    · rename_i h'
      simp only [ne_eq, not_not] at h h'
      simp [h, h']

end Sys2Proof
end

