-- ==== Sys2Proof/Laws/Transport.lean ====
section
/-! SUPPORT. Whole transport operations on a scripted environment: what each does when its polls end at once
(41_bus_transport.md R133, R134; 42_field_codec.md R151). -/

namespace Sys2Proof.Machine

theorem checkAddress_of_legal {s : State} {dev : Nat} (h : addressLegal s.cfg dev = true) :
    checkAddress dev s = (.ok (), s) := by
  simp [checkAddress, h]

theorem checkAddress_of_illegal {s : State} {dev : Nat} (h : addressLegal s.cfg dev = false) :
    checkAddress dev s = (.error .invalidAddress, s) := by
  simp [checkAddress, h]

/-- A `SmiRead` on a script: busy answers before a clear one, late answers before a valid one, then the datum. -/
theorem smiRead_script {s : State} {dev : Nat} {reg : RegNum} {busy late : List Word} {c v d : Word} {cs ds : List Word}
    (ha : addressLegal s.cfg dev = true)
    (hb : ∀ x ∈ busy, x.getLsbD s.cfg.bus.busyBit = true) (hbn : busy.length < s.cfg.bus.busyPollMax)
    (hc : c.getLsbD s.cfg.bus.busyBit = false)
    (hl : ∀ x ∈ late, x.getLsbD s.cfg.bus.rvalidBit = false) (hln : late.length < s.cfg.bus.rvalidPollMax)
    (hv : v.getLsbD s.cfg.bus.rvalidBit = true)
    (h : s.env = .script (busy ++ c :: (late ++ v :: cs)) (d :: ds)) :
    smiRead dev reg s = (.ok (datum d), busMoved s cs ds
      (busy.map .readCtrl ++ [.readCtrl c, .writeCtrl (cwRead s.cfg dev reg)] ++ late.map .readCtrl ++
        [.readCtrl v, .readData d])) := by
  unfold smiRead
  rw [andThen_of_ok (checkAddress_of_legal ha), andThen_of_ok (m := pollBusy) (pollBusyFrom_script hb hbn hc h), andThen_issue,
    memWriteCtrl_script (cs := late ++ v :: cs) (ds := d :: ds) _ rfl]
  rw [andThen_of_ok (m := pollValid)
    (pollValidFrom_script (s := busMoved (busMoved s (late ++ v :: cs) (d :: ds) _) _ _ _) hl hln hv rfl)]
  simp [fetchData, memReadData_script (s := busMoved _ cs (d :: ds) _) rfl, datum]

/-- A `SmiWrite` on a script: busy answers before a clear one, then the control word. -/
theorem smiWrite_script {s : State} {dev : Nat} {reg : RegNum} {x : Half} {busy : List Word} {c : Word}
    {cs ds : List Word} (ha : addressLegal s.cfg dev = true)
    (hb : ∀ x ∈ busy, x.getLsbD s.cfg.bus.busyBit = true) (hbn : busy.length < s.cfg.bus.busyPollMax)
    (hc : c.getLsbD s.cfg.bus.busyBit = false) (h : s.env = .script (busy ++ c :: cs) ds) :
    smiWrite dev reg x s = (.ok (), busMoved s cs ds
      (busy.map .readCtrl ++ [.readCtrl c, .writeCtrl (cwWrite s.cfg dev reg x)])) := by
  unfold smiWrite
  rw [andThen_of_ok (checkAddress_of_legal ha), andThen_of_ok (m := pollBusy) (pollBusyFrom_script hb hbn hc h)]
  simp [issue, memWriteCtrl_script (s := busMoved s cs ds _) _ rfl]

/-- A `SmiRead` whose polls end at once. -/
theorem smiRead_ready {s : State} {dev : Nat} {reg : RegNum} {c v d : Word} {cs ds : List Word}
    (hw : s.cfg.bus.WF) (ha : addressLegal s.cfg dev = true) (hc : Ready s.cfg c) (hv : Ready s.cfg v)
    (h : s.env = .script (c :: v :: cs) (d :: ds)) :
    smiRead dev reg s = (.ok (datum d), busMoved s cs ds (readTrace s.cfg dev reg c v d)) := by
  have h1 := hw.busyPoll_pos
  have h2 := hw.rvalidPoll_larger
  have := smiRead_script (reg := reg) (busy := []) (late := []) ha (by simp) (by simp; omega) hc.1 (by simp)
    (by simp; omega) hv.2 (by simpa using h)
  simpa [readTrace] using this

/-- A `SmiWrite` whose poll ends at once. -/
theorem smiWrite_ready {s : State} {dev : Nat} {reg : RegNum} {x : Half} {c : Word} {cs ds : List Word}
    (hw : s.cfg.bus.WF) (ha : addressLegal s.cfg dev = true) (hc : Ready s.cfg c) (h : s.env = .script (c :: cs) ds) :
    smiWrite dev reg x s = (.ok (), busMoved s cs ds (writeTrace s.cfg dev reg x c)) := by
  have h1 := hw.busyPoll_pos
  have := smiWrite_script (reg := reg) (x := x) (busy := []) ha (by simp) (by simp; omega) hc.1 (by simpa using h)
  simpa [writeTrace] using this

/-- A field write whose polls end at once. -/
theorem writeField_ready {s : State} {dev : Nat} {reg : RegNum} {off : BitVec 4} {len : BitVec 5} {val : Half}
    {c v c' d : Word} {cs ds : List Word} (hw : s.cfg.bus.WF) (ha : addressLegal s.cfg dev = true)
    (hc : Ready s.cfg c) (hv : Ready s.cfg v) (hc' : Ready s.cfg c')
    (h : s.env = .script (c :: v :: c' :: cs) (d :: ds)) :
    writeField dev reg off len val s = (.ok (), busMoved s cs ds
      (readTrace s.cfg dev reg c v d ++ writeTrace s.cfg dev reg (mergeField (datum d) off len val) c')) := by
  unfold writeField
  rw [andThen_of_ok (smiRead_ready hw ha hc hv h),
    smiWrite_ready (s := busMoved s (c' :: cs) ds _) hw ha hc' rfl]
  simp

/-- A command that ends well after bus accesses only. -/
theorem finish_busMoved {m : Bus Half} {s : State} {cs ds : List Word} {evs : List BusEvent} {v : Half}
    (h : m s = (.ok v, busMoved s cs ds evs)) : finish m s = answered s .ok v cs ds evs := by
  simp [finish, h, answered, busMoved, respond]

/-- A command that fails after bus accesses only. -/
theorem finish_busMoved_error {m : Bus Half} {s : State} {cs ds : List Word} {evs : List BusEvent} {st : Status}
    (h : m s = (.error st, busMoved s cs ds evs)) : finish m s = answered s st 0 cs ds evs := by
  simp [finish, h, answered, busMoved, respond, raise]

end Sys2Proof.Machine
end

