-- ==== Sys2Proof/Laws/Table.lean ====
section
/-! SUPPORT. What the Indirect Table Engine's operations can do (44_atu_engine.md R185, R186), each said once. -/

namespace Sys2Proof.Machine

/-- Everything one poll of a Busy-Wait can do (R186): the transport failed, the table is ready, the bound is reached, or
the command waits on. -/
theorem tableWait_cases (c : TableCmd) (ph : WaitPhase) (k : Nat) (p : TablePlan) (f : State → State) (s : State) :
    (∃ st t, smiRead p.dev p.opReg s = (.error st, t) ∧ tableWait c ph k p f s = raise st t) ∨
    (∃ v t, smiRead p.dev p.opReg s = (.ok v, t) ∧ v.getLsbD 15 = false ∧ tableWait c ph k p f s = f t) ∨
    (∃ v t, smiRead p.dev p.opReg s = (.ok v, t) ∧ v.getLsbD 15 = true ∧ waitExhausted t.cfg (k + 1) = true ∧
      tableWait c ph k p f s = raise .timeout t) ∨
    (∃ v t, smiRead p.dev p.opReg s = (.ok v, t) ∧ v.getLsbD 15 = true ∧ waitExhausted t.cfg (k + 1) = false ∧
      tableWait c ph k p f s = { t with seq := .waiting c ph (k + 1) }) := by
  unfold tableWait
  match h : smiRead p.dev p.opReg s with
  | (.error st, t) => exact .inl ⟨st, t, rfl, rfl⟩
  | (.ok v, t) =>
    cases hv : v.getLsbD 15
    · exact .inr (.inl ⟨v, t, rfl, hv, by simp only [hv, Bool.false_eq_true, if_false]⟩)
    · cases hw : waitExhausted t.cfg (k + 1)
      · exact .inr (.inr (.inr ⟨v, t, rfl, hv, hw, by simp only [hv, hw, Bool.false_eq_true, if_true, if_false]⟩))
      · exact .inr (.inr (.inl ⟨v, t, rfl, hv, hw, by simp only [hv, hw, if_true]⟩))

/-- A ready table lets the command go on. -/
theorem tableWait_of_ready {c : TableCmd} {ph : WaitPhase} {k : Nat} {p : TablePlan} {f : State → State} {s t : State}
    {v : Half} (h : smiRead p.dev p.opReg s = (.ok v, t)) (hv : v.getLsbD 15 = false) :
    tableWait c ph k p f s = f t := by
  simp only [tableWait, h, hv, Bool.false_eq_true, if_false]

/-- A busy table keeps it waiting, below the bound. -/
theorem tableWait_of_busy {c : TableCmd} {ph : WaitPhase} {k : Nat} {p : TablePlan} {f : State → State} {s t : State}
    {v : Half} (h : smiRead p.dev p.opReg s = (.ok v, t)) (hv : v.getLsbD 15 = true)
    (hw : waitExhausted t.cfg (k + 1) = false) :
    tableWait c ph k p f s = { t with seq := .waiting c ph (k + 1) } := by
  simp only [tableWait, h, hv, hw, Bool.false_eq_true, if_true, if_false]

/-- A busy table answers Timeout at the bound. -/
theorem tableWait_of_exhausted {c : TableCmd} {ph : WaitPhase} {k : Nat} {p : TablePlan} {f : State → State}
    {s t : State} {v : Half} (h : smiRead p.dev p.opReg s = (.ok v, t)) (hv : v.getLsbD 15 = true)
    (hw : waitExhausted t.cfg (k + 1) = true) :
    tableWait c ph k p f s = raise .timeout t := by
  simp only [tableWait, h, hv, hw, if_true]

/-- Everything what follows the first wait can do (R185): a write failed, or the command answers at once, or the second
wait begins. -/
theorem runCommit_cases (c : TableCmd) (p : TablePlan) (s : State) :
    (∃ st t, writeAll p.dev (p.commit s) s = (.error st, t) ∧ runCommit c p s = raise st t) ∨
    (∃ t, writeAll p.dev (p.commit s) s = (.ok (), t) ∧ p.readStyle = false ∧ t.cfg.postWaitAll = false ∧
      runCommit c p s = respond .ok 0 t) ∨
    (∃ t, writeAll p.dev (p.commit s) s = (.ok (), t) ∧ (p.readStyle = true ∨ t.cfg.postWaitAll = true) ∧
      runCommit c p s = runPostWait c 0 p t) := by
  unfold runCommit
  match h : writeAll p.dev (p.commit s) s with
  | (.error st, t) => exact .inl ⟨st, t, rfl, rfl⟩
  | (.ok (), t) =>
    cases h1 : p.readStyle <;> cases h2 : t.cfg.postWaitAll <;> simp [h2]

/-- A command that needs the context runs exactly when it is valid (40_operand_and_context.md R114). -/
theorem requireContext_of_valid {run : State → State} {s : State} (h : s.ctx.valid = true) :
    requireContext run s = run s := by
  simp [requireContext, h]

theorem requireContext_of_invalid {run : State → State} {s : State} (h : s.ctx.valid = false) :
    requireContext run s = raise .fail s := by
  simp [requireContext, h]

/-- The table a plan polls is the same whatever the command does: the ATU's or the PVT's (R185). -/
theorem tablePlan_dev (cfg : Config) (c : TableCmd) :
    ((tablePlan cfg c).dev = atuDev cfg ∧ (tablePlan cfg c).opReg = cfg.atu.operation) ∨
    ((tablePlan cfg c).dev = pvtDev cfg ∧ (tablePlan cfg c).opReg = cfg.pvt.addr) := by
  cases c <;> first | exact .inl ⟨rfl, rfl⟩ | exact .inr ⟨rfl, rfl⟩

/-- The read-style commands (R204). -/
theorem tablePlan_readStyle (cfg : Config) (c : TableCmd) :
    (tablePlan cfg c).readStyle = true ↔ c = .atuGetNext ∨ c = .atuSvcViol ∨ c = .pvtRead := by
  cases c <;> simp [tablePlan, planAtuFlushAll, planAtuFlushUnlocked, planAtuLoadPurge, planAtuGetNext,
    planAtuFlushAllDb, planAtuFlushUnlockedDb, planAtuSvcViol, planPvtWrite, planPvtRead, atuPlan]

end Sys2Proof.Machine
end

