-- ==== Sys2Proof/Laws/Frames.lean ====
section
/-! SUPPORT. What the composed operations can change: `Stores regs` is a bus-only change that may also write the operand
registers `regs` (10_state.md R21 to R23; 44_atu_engine.md R202). -/

namespace Sys2Proof.Machine

/-- From `s` to `t` the bus side has moved and only the operand registers `regs` may have been written. -/
structure Stores (regs : List (BitVec 4)) (s t : State) : Prop where
  cfg : t.cfg = s.cfg
  e : ∀ j, j ∉ regs → readE j t = readE j s
  ctx : t.ctx = s.ctx
  seq : t.seq = s.seq
  response : t.response = s.response
  commands : t.commands = s.commands
  resetIn : t.resetIn = s.resetIn
  resets : t.resets = s.resets
  history : s.history <+: t.history

/-- A piece of a command that writes only the operand registers `regs`. -/
def StorePiece {α : Type} (regs : List (BitVec 4)) (m : Bus α) : Prop := ∀ s, Stores regs s (m s).2

theorem BusOnly.stores {s t : State} (h : BusOnly s t) (regs : List (BitVec 4)) : Stores regs s t :=
  ⟨h.cfg, fun j _ => readE_congr h.e j, h.ctx, h.seq, h.response, h.commands, h.resetIn, h.resets, h.history⟩

theorem Stores.refl (regs : List (BitVec 4)) (s : State) : Stores regs s s := (BusOnly.refl s).stores regs

theorem Stores.trans {regs regs' : List (BitVec 4)} {s t u : State} (h : Stores regs s t) (k : Stores regs' t u) :
    Stores (regs ++ regs') s u where
  cfg := k.cfg.trans h.cfg
  e := fun j hj => by
    simp only [List.mem_append, not_or] at hj
    exact (k.e j hj.2).trans (h.e j hj.1)
  ctx := k.ctx.trans h.ctx
  seq := k.seq.trans h.seq
  response := k.response.trans h.response
  commands := k.commands.trans h.commands
  resetIn := k.resetIn.trans h.resetIn
  resets := k.resets.trans h.resets
  history := h.history.trans k.history

theorem Stores.mono {regs regs' : List (BitVec 4)} {s t : State} (h : Stores regs s t) (hs : regs ⊆ regs') :
    Stores regs' s t :=
  ⟨h.cfg, fun j hj => h.e j fun hm => hj (hs hm), h.ctx, h.seq, h.response, h.commands, h.resetIn, h.resets, h.history⟩

theorem stores_writeE (i : BitVec 4) (v : Half) (s : State) : Stores [i] s (writeE i v s) :=
  ⟨rfl, fun j hj => readE_writeE_of_ne (by rintro rfl; exact hj (by simp)) v s, rfl, rfl, rfl, rfl, rfl, rfl,
    List.prefix_rfl⟩

theorem BusPiece.storePiece {α : Type} {m : Bus α} (h : BusPiece m) (regs : List (BitVec 4)) : StorePiece regs m :=
  fun s => (h s).stores regs

theorem StorePiece.mono {α : Type} {regs regs' : List (BitVec 4)} {m : Bus α} (h : StorePiece regs m)
    (hs : regs ⊆ regs') : StorePiece regs' m := fun s => (h s).mono hs

theorem StorePiece.andThen {α β : Type} {regs regs' : List (BitVec 4)} {m : Bus α} {k : α → Bus β}
    (hm : StorePiece regs m) (hk : ∀ a, StorePiece regs' (k a)) : StorePiece (regs ++ regs') (andThen m k) := by
  intro s
  have h1 := hm s
  rcases andThen_cases m k s with ⟨st, t, h, e⟩ | ⟨a, t, h, e⟩
  · rw [h] at h1
    rw [e]
    exact h1.mono (List.subset_append_left _ _)
  · rw [h] at h1
    rw [e]
    exact h1.trans (hk a t)

theorem storePiece_storeE (i : BitVec 4) (v : Half) : StorePiece [i] (storeE i v) := fun s => stores_writeE i v s

/-! ## The table engine's pieces -/

/-- E_DATA and E_COMMIT move the bus side only (R187). -/
theorem busPiece_writeAll (dev : Nat) (ws : List (RegNum × Half)) : BusPiece (writeAll dev ws) := by
  induction ws with
  | nil => exact busPiece_give ()
  | cons w rest ih => exact (busPiece_smiWrite dev w.1 w.2).andThen fun _ => ih

/-- The operand registers unpacking a data word writes (R190). -/
def unpackedRegs (cfg : Config) : List (BitVec 4) := [5, 4, 6] ++ (if cfg.atu.trunkBit.isSome then [7] else [])

theorem stores_unpackAtuData (d : Half) (s : State) : Stores (unpackedRegs s.cfg) s (unpackAtuData d s) := by
  have h : Stores ([5] ++ [4] ++ [6]) s (writeE 6 ((d >>> s.cfg.atu.prioLsb) &&& 0x3)
      (writeE 4 ((d >>> s.cfg.atu.pvLsb) &&& pvMask s.ctx) (writeE 5 ((d >>> s.cfg.atu.stateLsb) &&& 0xF) s))) :=
    ((stores_writeE 5 _ s).trans (stores_writeE 4 _ _)).trans (stores_writeE 6 _ _)
  unfold unpackAtuData unpackedRegs
  cases s.cfg.atu.trunkBit with
  | none => exact h
  | some t => exact h.trans (stores_writeE 7 _ _)

/-- The operand registers a result writes. -/
def usedRegs (cfg : Config) : ResultUse → List (BitVec 4)
  | .store i => [i]
  | .storeDatabase => [3]
  | .storeState => [5]
  | .unpackEntry => unpackedRegs cfg
  | .storeKind => [11]

theorem stores_useResult (u : ResultUse) (v : Half) (s : State) : Stores (usedRegs s.cfg u) s (useResult u v s) := by
  cases u
  · exact stores_writeE _ _ s
  · exact stores_writeE _ _ s
  · exact stores_writeE _ _ s
  · exact stores_unpackAtuData v s
  · exact stores_writeE _ _ s

@[simp] theorem useResult_cfg (u : ResultUse) (v : Half) (s : State) : (useResult u v s).cfg = s.cfg :=
  (stores_useResult u v s).cfg

/-- E_RESULT writes the registers its results name, and no others (R202). -/
theorem stores_readAll (dev : Nat) (rs : List (RegNum × ResultUse)) (s : State) :
    Stores (rs.flatMap fun r => usedRegs s.cfg r.2) s (readAll dev rs s).2 := by
  induction rs generalizing s with
  | nil => exact Stores.refl _ s
  | cons r rest ih =>
    have hread := busPiece_smiRead dev r.1 s
    unfold readAll
    rcases andThen_cases (smiRead dev r.1) _ s with ⟨st, t, h, e⟩ | ⟨v, t, h, e⟩
    · rw [h] at hread
      rw [e]
      exact hread.stores _
    · rw [h] at hread
      have huse := stores_useResult r.2 v t
      rw [show t.cfg = s.cfg from hread.cfg] at huse
      rw [e]
      show Stores _ s ((if endsReadBack t.cfg r.2 v then give () else readAll dev rest) (useResult r.2 v t)).2
      split
      · exact ((hread.stores []).trans huse).mono (by simp [List.flatMap_cons])
      · have hrest := ih (useResult r.2 v t)
        rw [useResult_cfg, show t.cfg = s.cfg from hread.cfg] at hrest
        exact (((hread.stores []).trans huse).trans hrest).mono (by simp [List.flatMap_cons])

/-! ## Ends of commands -/

/-- Everything the end of a command can do: it answers Ok with its value, or its failing status (60_exceptions.md R272). -/
theorem finish_cases (m : Bus Half) (s : State) :
    (∃ v t, m s = (.ok v, t) ∧ finish m s = respond .ok v t) ∨
    (∃ st t, m s = (.error st, t) ∧ finish m s = raise st t) := by
  unfold finish
  match h : m s with
  | (.ok v, t) => exact .inl ⟨v, t, rfl, rfl⟩
  | (.error st, t) => exact .inr ⟨st, t, rfl, rfl⟩

/-- Everything the checks of a port-configuration command can do (46_port_config.md R235, R250). -/
theorem portChecks_cases (op : PortOp) (legal : Bool) (run : State → State) (s : State) :
    (s.ctx.valid = false ∧ portChecks op legal run s = raise .fail s) ∨
    (s.ctx.valid = true ∧ pcfgLegal s.cfg s.ctx.deviceId op = false ∧
      portChecks op legal run s = raise .notSupported s) ∨
    (s.ctx.valid = true ∧ pcfgLegal s.cfg s.ctx.deviceId op = true ∧ legal = false ∧
      portChecks op legal run s = raise .badParameter s) ∨
    (s.ctx.valid = true ∧ pcfgLegal s.cfg s.ctx.deviceId op = true ∧ legal = true ∧
      portChecks op legal run s = run s) := by
  cases h1 : s.ctx.valid <;> cases h2 : pcfgLegal s.cfg s.ctx.deviceId op <;> cases legal <;>
    simp [portChecks, portStatus, h1, h2]

/-- The bits of PHY_POWER move the bus side only (R249). -/
theorem busPiece_powerBits (dev : Nat) (v : Half) (bits : List PowerBit) : BusPiece (powerBits dev v bits) := by
  induction bits with
  | nil => exact busPiece_give ()
  | cons b rest ih => exact BusPiece.andThen (fun s => busPiece_writeField _ _ _ _ _ s) fun _ => ih

/-- The page restore moves the bus side only and answers the first failure or its own status (R249). -/
theorem restorePage_eq (dev : Nat) (first : Status) (s : State) :
    restorePage dev first s = respond
      (if first = .ok then outcomeStatus (smiWrite dev s.cfg.phy.pageReg s.cfg.phy.pageDefault s).1 else first) 0
      (smiWrite dev s.cfg.phy.pageReg s.cfg.phy.pageDefault s).2 := rfl

/-- Everything PHY_POWER's sequence can do (R249): the page is not entered, or it is restored at the end. -/
theorem powerSequence_cases (dev : Nat) (v : Half) (s : State) :
    (∃ st t, smiWrite dev s.cfg.phy.pageReg s.cfg.phy.powerPage s = (.error st, t) ∧
      powerSequence dev v s = raise st t) ∨
    (∃ t, smiWrite dev s.cfg.phy.pageReg s.cfg.phy.powerPage s = (.ok (), t) ∧
      powerSequence dev v s = restorePage dev (outcomeStatus (powerBits dev v t.cfg.phy.powerBits t).1)
        (powerBits dev v t.cfg.phy.powerBits t).2) := by
  unfold powerSequence
  match h : smiWrite dev s.cfg.phy.pageReg s.cfg.phy.powerPage s with
  | (.error st, t) => exact .inl ⟨st, t, rfl, rfl⟩
  | (.ok (), t) => exact .inr ⟨t, rfl, rfl⟩

end Sys2Proof.Machine
end

