-- ==== Sys2Proof/Laws/Phases.lean ====
section
/-! SUPPORT. What the sequencer's own steps can do (00_scope.md R9; 10_state.md R25), each said once. -/

namespace Sys2Proof.Machine

/-! ## runningAt -/

@[simp] theorem runningAt_cfg (w : Work) (s : State) : (runningAt w s).cfg = s.cfg := rfl
@[simp] theorem runningAt_e (w : Work) (s : State) : (runningAt w s).e = s.e := rfl
@[simp] theorem runningAt_ctx (w : Work) (s : State) : (runningAt w s).ctx = s.ctx := rfl
@[simp] theorem runningAt_seq (w : Work) (s : State) : (runningAt w s).seq = .running w := rfl
@[simp] theorem runningAt_response (w : Work) (s : State) : (runningAt w s).response = s.response := rfl
@[simp] theorem runningAt_history (w : Work) (s : State) : (runningAt w s).history = s.history := rfl
@[simp] theorem runningAt_env (w : Work) (s : State) : (runningAt w s).env = s.env := rfl
@[simp] theorem runningAt_draws (w : Work) (s : State) : (runningAt w s).draws = s.draws := rfl
@[simp] theorem runningAt_commands (w : Work) (s : State) : (runningAt w s).commands = s.commands := rfl
@[simp] theorem runningAt_resetIn (w : Work) (s : State) : (runningAt w s).resetIn = s.resetIn := rfl
@[simp] theorem runningAt_resets (w : Work) (s : State) : (runningAt w s).resets = s.resets := rfl

/-! ## A failure -/

@[simp] theorem failed_trans (st : Status) (w : Work) : (w.failed st).trans = none := rfl
@[simp] theorem failed_last (st : Status) (w : Work) : (w.failed st).last = w.last := rfl
@[simp] theorem failed_status (st : Status) (w : Work) :
    (w.failed st).status = if w.status = .ok then st else w.status := rfl
@[simp] theorem failed_todo (st : Status) (w : Work) : (w.failed st).todo = afterFailure w.todo := rfl

/-- What a failure leaves to run: the answer, or the page restore and what follows it (46_port_config.md R249;
60_exceptions.md R272). -/
theorem afterFailure_cases (todo : List Task) :
    afterFailure todo = [.answer 0] ∨ ∃ dev rest, afterFailure todo = .restorePage dev :: rest := by
  unfold afterFailure
  induction todo with
  | nil => exact .inl rfl
  | cons t rest ih =>
    cases t <;> first
      | exact ih
      | exact .inr ⟨_, _, rfl⟩

/-! ## Opening the next operation (T_CHECK) -/

/-- Everything `openNext` can do (41_bus_transport.md R131): the command stays as it is, its next operation opens, or it
fails on the address. -/
theorem openNext_cases (cfg : Config) (w : Work) :
    openNext cfg w = w ∨
    (∃ t rest op, w.trans = none ∧ w.todo = t :: rest ∧ t.busOp cfg w.last = some op ∧
      addressLegal cfg op.device = true ∧
      openNext cfg w = { w with trans := some ⟨op, .busy cfg.bus.busyPollMax⟩, todo := rest }) ∨
    (∃ t rest op, w.trans = none ∧ w.todo = t :: rest ∧ t.busOp cfg w.last = some op ∧
      addressLegal cfg op.device = false ∧
      openNext cfg w = Work.failed .invalidAddress { w with todo := rest }) := by
  unfold openNext
  cases hw : w.trans with
  | some tr => exact .inl rfl
  | none =>
    cases ht : w.todo with
    | nil => exact .inl rfl
    | cons t rest =>
      cases ho : t.busOp cfg w.last with
      | none => simp only [ho]; exact .inl trivial
      | some op =>
        cases ha : addressLegal cfg op.device
        · exact .inr (.inr ⟨t, rest, op, rfl, rfl, ho, ha, by simp only [ho, ha]; rfl⟩)
        · exact .inr (.inl ⟨t, rest, op, rfl, rfl, ho, ha, by simp only [ho, ha]; rfl⟩)

/-! ## The frame of one access -/

/-- From `s` to `t` only the sequencer and operand registers have changed: nothing on the bus side, no response. -/
structure Inside (s t : State) : Prop where
  cfg : t.cfg = s.cfg
  ctx : t.ctx = s.ctx
  response : t.response = s.response
  history : t.history = s.history
  env : t.env = s.env
  draws : t.draws = s.draws
  commands : t.commands = s.commands
  resetIn : t.resetIn = s.resetIn
  resets : t.resets = s.resets

theorem inside_runningAt (w : Work) (s : State) : Inside s (runningAt w s) :=
  ⟨rfl, rfl, rfl, rfl, rfl, rfl, rfl, rfl, rfl⟩

theorem inside_writeE (i : BitVec 4) (v : Half) (s : State) : Inside s (writeE i v s) :=
  ⟨rfl, rfl, rfl, rfl, rfl, rfl, rfl, rfl, rfl⟩

theorem inside_useResult (u : ResultUse) (v : Half) (s : State) : Inside s (useResult u v s) := by
  cases u <;> simp only [useResult, unpackAtuData]
  case unpackEntry => split <;> exact ⟨rfl, rfl, rfl, rfl, rfl, rfl, rfl, rfl, rfl⟩
  all_goals exact inside_writeE _ _ s

/-- What an operation leads to stays inside the block (44_atu_engine.md R186, R202). -/
theorem inside_proceed (w : Work) (s : State) : Inside s (proceed w s) := by
  unfold proceed
  split
  · have h := inside_useResult ‹_› w.last s
    exact ⟨h.cfg, h.ctx, h.response, h.history, h.env, h.draws, h.commands, h.resetIn, h.resets⟩
  · repeat' split
    all_goals exact ⟨rfl, rfl, rfl, rfl, rfl, rfl, rfl, rfl, rfl⟩
  · exact inside_runningAt _ s
  · exact inside_runningAt _ s

/-- One access adds one event to the history, or none when its countdown had no read left (00_scope.md R9; 20_memory.md
R51). -/
theorem makeAccess_history (tr : Transaction) (w : Work) (s : State) :
    (∃ ev, (makeAccess tr w s).history = s.history ++ [ev]) ∨
    ((tr.phase = .busy 0 ∨ tr.phase = .rvalid 0) ∧ (makeAccess tr w s).history = s.history) := by
  unfold makeAccess
  split
  · exact .inr ⟨.inl ‹_›, rfl⟩
  · refine .inl ⟨.readCtrl (memReadCtrl s).1, ?_⟩
    repeat' split
    all_goals exact memReadCtrl_history s
  · refine .inl ?_
    split
    · exact ⟨_, rfl⟩
    · exact ⟨_, (inside_proceed _ _).history⟩
  · exact .inr ⟨.inr ‹_›, rfl⟩
  · refine .inl ⟨.readCtrl (memReadCtrl s).1, ?_⟩
    repeat' split
    all_goals exact memReadCtrl_history s
  · exact .inl ⟨_, (inside_proceed _ _).history.trans (memReadData_history s)⟩

/-! ## The reset input -/

/-- Without the reset input a step is what the block does (log 8). -/
theorem underReset_of_none {go : State → Host.Outcome State Fault Refusal} {s : State} (h : s.resetIn = none) :
    underReset go s = go s := by
  simp [underReset, h]

/-- Steps of the sequencer compose. -/
theorem accessSteps_add (m n : Nat) {s t : State} (h : accessSteps m s = .next t) :
    accessSteps (m + n) s = accessSteps n t := by
  induction m generalizing s with
  | zero =>
    simp only [accessSteps, Host.Outcome.next.injEq] at h
    simp [h]
  | succ m ih =>
    rw [Nat.succ_add]
    simp only [accessSteps] at h ⊢
    match hs : accessStep s with
    | .next u => rw [hs] at h; exact ih h
    | .fault r => exact nomatch r
    | .refused r => rw [hs] at h; exact nomatch h

end Sys2Proof.Machine
end

