-- ==== Sys2Proof/Machine/Pseudo.lean ====
section
/-! DEFINITION. The assembler's pseudo-instructions, as the commands they expand to, and its syntax (30_encoding.md R95,
R100 to R102). No part of the block: what a host writes. -/

namespace Sys2Proof.Machine

/-- `DIAG port register accessKind [value]` (R100). -/
def expandDiag (port : BitVec 8) (reg : RegNum) (kind : BitVec 3) : Option Half → List Instr
  | none => [.regRd port reg kind]
  | some v => [.regWr port reg kind v]

/-- `LDMAC b0:b1:b2:b3:b4:b5` (R101), in the byte order of 20_memory.md R54. -/
def expandLdmac (b0 b1 b2 b3 b4 b5 : BitVec 8) : List Instr :=
  [.lde 0 (b0 ++ b1), .lde 1 (b2 ++ b3), .lde 2 (b4 ++ b5)]

/-- `LDENTRY mac, db, pv, state, prio, trunk` (R101). -/
def expandLdentry (b0 b1 b2 b3 b4 b5 : BitVec 8) (db pv state prio trunk : Half) : List Instr :=
  expandLdmac b0 b1 b2 b3 b4 b5 ++ [.lde 3 db, .lde 4 pv, .lde 5 state, .lde 6 prio, .lde 7 trunk]

/-- `ATU_PURGE` (R102): that entry state 0 makes a purge is the spec's general knowledge, the block does not tell. -/
def expandAtuPurge : List Instr := [.lde 5 0, .atuLoadPurge]

/-- A decimal operand. -/
def decimal {n : Nat} (x : BitVec n) : String := toString x.toNat

/-- The name of a kind code, or its number (R95). -/
def kindName (k : BitVec 3) : String :=
  match k.toNat with
  | 1 => "PHY"
  | 2 => "PORT"
  | 3 => "GLOBAL"
  | 4 => "GLOBAL2"
  | 5 => "RAW"
  | _ => decimal k

/-- A command in assembler syntax (R95). -/
def assembly : Instr → String
  | .lde i imm => "LDE E" ++ decimal i ++ ", " ++ decimal imm
  | .rde i => "RDE E" ++ decimal i
  | .ctxInit => "CTX_INIT"
  | .ctxRd n => "CTX_RD " ++ decimal n
  | .smiRd dev reg => "SMI_RD " ++ decimal dev ++ ", " ++ decimal reg
  | .smiWr dev reg val => "SMI_WR " ++ decimal dev ++ ", " ++ decimal reg ++ ", " ++ decimal val
  | .smiFldWr dev reg off len val =>
    "SMI_FLD_WR " ++ decimal dev ++ ", " ++ decimal reg ++ ", " ++ decimal off ++ ", " ++ decimal len ++ ", " ++ decimal val
  | .regRd port reg kind => "REG_RD " ++ decimal port ++ ", " ++ decimal reg ++ ", " ++ kindName kind
  | .regWr port reg kind val =>
    "REG_WR " ++ decimal port ++ ", " ++ decimal reg ++ ", " ++ kindName kind ++ ", " ++ decimal val
  | .regFldWr port reg kind off len val =>
    "REG_FLD_WR " ++ decimal port ++ ", " ++ decimal reg ++ ", " ++ kindName kind ++ ", " ++ decimal off ++ ", " ++
      decimal len ++ ", " ++ decimal val
  | .atuFlushAll => "ATU_FLUSH_ALL"
  | .atuFlushUnlocked => "ATU_FLUSH_UNLOCKED"
  | .atuLoadPurge => "ATU_LOAD_PURGE"
  | .atuGetNext => "ATU_GET_NEXT"
  | .atuFlushAllDb => "ATU_FLUSH_ALL_DB"
  | .atuFlushUnlockedDb => "ATU_FLUSH_UNLOCKED_DB"
  | .atuSvcViol => "ATU_SVC_VIOL"
  | .pvtWrite => "PVT_WRITE"
  | .pvtRead => "PVT_READ"
  | .portState port v => "PORT_STATE " ++ decimal port ++ ", " ++ decimal v
  | .portFrameMode port v => "PORT_FRAME_MODE " ++ decimal port ++ ", " ++ decimal v
  | .portVlanMembers port v => "PORT_VLAN_MEMBERS " ++ decimal port ++ ", " ++ decimal v
  | .portHeaderMode port v => "PORT_HEADER_MODE " ++ decimal port ++ ", " ++ decimal v
  | .pcsForceSpeed port v => "PCS_FORCE_SPEED " ++ decimal port ++ ", " ++ decimal v
  | .pcsForceDuplex port v => "PCS_FORCE_DUPLEX " ++ decimal port ++ ", " ++ decimal v
  | .pcsForceFc port v => "PCS_FORCE_FC " ++ decimal port ++ ", " ++ decimal v
  | .pcsForceLink port v => "PCS_FORCE_LINK " ++ decimal port ++ ", " ++ decimal v
  | .portJumbo port size => "PORT_JUMBO " ++ decimal port ++ ", " ++ decimal size
  | .phyPower port v => "PHY_POWER " ++ decimal port ++ ", " ++ decimal v

end Sys2Proof.Machine
end

