-- ==== Sys2Proof/Tests/Slice0.lean ====
section
/-! SUPPORT. Tests. Expected words and values are those of spec/95_test_vectors.md and of the rules' examples; a
`witness_<Name>` shows states and operands that meet the hypotheses of the obligation `<Name>`, clause by clause. -/

namespace Sys2Proof.Machine.Tests

/-! ## Builders -/

/-- CTX0 of 95_test_vectors.md. -/
def ctx0 : Context := ⟨true, 1, 7, 7, 5, 0x007F, 0x001F⟩

/-- A block with CTX0 and operand registers `e`, the rest 0. -/
def start (env : Environment) (e : List (Fin 16 × Half) := []) : State :=
  { State.reset with env := env, ctx := ctx0, e := e.foldl (fun v p => v.set p.1.val p.2) (Vector.replicate 16 0) }

/-- The same block before CTX_INIT. -/
def bare (env : Environment) (e : List (Fin 16 × Half) := []) : State :=
  { start env e with ctx := { ctx0 with valid := false } }

/-- `n` consecutive answers. -/
def rep (n : Nat) (w : Word) : List Word := List.replicate n w

/-- Busy set (95_test_vectors.md T4). -/
def B : Word := 0x10000000
/-- Read-valid set (95_test_vectors.md T4). -/
def V : Word := 0x08000000

/-- The next state of an outcome. -/
def nextState : Host.Outcome State Fault Refusal → Option State
  | .next t => some t
  | .fault _ => none
  | .refused _ => none

/-- The response and the accesses of one command. -/
def seen (i : Instr) (s : State) : Option (Option Word × List BusEvent) :=
  (nextState (exec i s)).map fun t => (t.response, t.history)

/-- The response and the control words written by one command. -/
def written (i : Instr) (s : State) : Option (Option Word × List Word) :=
  (seen i s).map fun p => (p.1, p.2.filterMap fun ev => match ev with | .writeCtrl w => some w | _ => none)

/-- The operand registers `is` after one command. -/
def regs (i : Instr) (is : List (BitVec 4)) (s : State) : Option (List Half) :=
  (nextState (exec i s)).map fun t => is.map fun j => readE j t

/-- ENV0 with one cell set. -/
def cell (dev : Nat) (reg : RegNum) (v : Half) : Environment := env0Start [(cellNumber dev reg, v)]

/-! ## Decoding: every command's word, written out from 30_encoding.md R81 to R83 -/

theorem test_decode_context : decode 0x010000000005000F = .ok (.lde 5 0x000F) ∧
    decode 0x0200000000050000 = .ok (.rde 5) ∧ decode 0x0300000000000000 = .ok .ctxInit ∧
    decode 0x0400000000010000 = .ok (.ctxRd 1) := by decide

theorem test_decode_smi : decode 0x1012040000000000 = .ok (.smiRd 0x12 0x04) ∧
    decode 0x111204000000BEEF = .ok (.smiWr 0x12 0x04 0xBEEF) ∧
    decode 0x121204020C000001 = .ok (.smiFldWr 0x12 0x04 12 2 1) := by decide

theorem test_decode_reg : decode 0x2002440000000000 = .ok (.regRd 2 0x04 2) ∧
    decode 0x21008C000000007F = .ok (.regWr 0 0x0C 4 0x007F) ∧
    decode 0x220244020C000001 = .ok (.regFldWr 2 0x04 2 12 2 1) ∧
    decode 0x22FFFF1F0F00FFFF = .ok (.regFldWr 255 31 7 15 31 0xFFFF) := by decide

theorem test_decode_atu : decode 0x3100000000000000 = .ok .atuFlushAll ∧
    decode 0x3200000000000000 = .ok .atuFlushUnlocked ∧ decode 0x3300000000000000 = .ok .atuLoadPurge ∧
    decode 0x3400000000000000 = .ok .atuGetNext ∧ decode 0x3500000000000000 = .ok .atuFlushAllDb ∧
    decode 0x3600000000000000 = .ok .atuFlushUnlockedDb ∧ decode 0x3700000000000000 = .ok .atuSvcViol := by decide

theorem test_decode_pvt : decode 0x4300000000000000 = .ok .pvtWrite ∧
    decode 0x4400000000000000 = .ok .pvtRead := by decide

theorem test_decode_port : decode 0x5001000000000003 = .ok (.portState 1 3) ∧
    decode 0x5105000000000001 = .ok (.portFrameMode 5 1) ∧
    decode 0x5200000000000060 = .ok (.portVlanMembers 0 0x60) ∧
    decode 0x5305000000000001 = .ok (.portHeaderMode 5 1) ∧
    decode 0x5405000000000002 = .ok (.pcsForceSpeed 5 2) ∧
    decode 0x5505000000000003 = .ok (.pcsForceDuplex 5 3) ∧
    decode 0x5605000000000003 = .ok (.pcsForceFc 5 3) ∧
    decode 0x5705000000000003 = .ok (.pcsForceLink 5 3) ∧
    decode 0x58030000000005F3 = .ok (.portJumbo 3 1523) ∧
    decode 0x5903000000000000 = .ok (.phyPower 3 0) := by decide

/-- V-I1 to V-I12 (95_test_vectors.md T9): each refused by name. -/
theorem test_decode_illegal : decode 0x0000000000000000 = .error (.unknownOpcode 0x00) ∧
    decode 0xFF00000000000000 = .error (.unknownOpcode 0xFF) ∧
    decode 0x3000000000000000 = .error (.unknownOpcode 0x30) ∧
    decode 0x4500000000000000 = .error (.unknownOpcode 0x45) ∧
    decode 0x0100000000150001 = .error .reservedField ∧ decode 0x0200000000050001 = .error .unusedField ∧
    decode 0x0400000000070000 = .error (.contextIndex 7) ∧ decode 0x1001440000000000 = .error .unusedField ∧
    decode 0x3400000000000001 = .error .unusedField ∧ decode 0x5001010000000001 = .error .unusedField ∧
    decode 0x2001440000000009 = .error .unusedField ∧ decode 0x1201012100000001 = .error .reservedField := by decide

theorem test_decode_table_word : decodeTableWord 64 0x1012040000000000 = some (.smiRd 0x12 0x04) ∧
    decodeTableWord 64 0x0400000000070000 = none := by decide

/-- WellFormed's one check refuses an ill-formed term, and so does the decoder its word. -/
theorem test_wf_ctxRd : (Instr.ctxRd 7).wf = false ∧ (Instr.ctxRd 6).wf = true ∧
    decode (encode (.ctxRd 7)) = .error (.contextIndex 7) := by decide

/-- The pseudo-instructions' expansions (30_encoding.md R100 to R102). -/
theorem test_pseudo : expandDiag 2 4 2 none = [.regRd 2 4 2] ∧ expandDiag 2 4 2 (some 7) = [.regWr 2 4 2 7] ∧
    expandLdmac 0x00 0x11 0x22 0x33 0x44 0x55 = [.lde 0 0x0011, .lde 1 0x2233, .lde 2 0x4455] ∧
    expandAtuPurge = [.lde 5 0, .atuLoadPurge] := by decide

theorem test_assembly : assembly (.regFldWr 2 4 2 12 2 1) = "REG_FLD_WR 2, 4, PORT, 12, 2, 1" ∧
    assembly (.lde 5 15) = "LDE E5, 15" := by decide

/-! ## One command each -/

/-- R110's and R111's examples. -/
theorem test_lde_rde : seen (.lde 5 0x000F) (bare (.script [] [])) = some (some 0x00000000, []) ∧
    regs (.lde 5 0x000F) [4, 5, 6] (bare (.script [] [])) = some [0, 0x000F, 0] ∧
    seen (.rde 5) (bare (.script [] []) [(5, 0x000F)]) = some (some 0x0000000F, []) := by decide +kernel

/-- R112's examples: a context made, and one refused (V-C7). -/
theorem test_ctxInit :
    (nextState (exec .ctxInit (bare (.script [] [])
      [(0, 1), (1, 7), (2, 7), (3, 5), (4, 0x7F), (5, 0x1F)]))).map (fun t => (t.response, t.ctx)) =
        some (some 0x00000000, ctx0) ∧
    (nextState (exec .ctxInit (start (.script [] []) [(0, 2)]))).map (fun t => (t.response, t.ctx.valid)) =
        some (some 0x00050000, false) := by decide +kernel

/-- R113's example, V-C1, V-C2. -/
theorem test_ctxRd : seen (.ctxRd 1) (start (.script [] [])) = some (some 0x00000007, []) ∧
    seen (.ctxRd 0) (bare (.script [] [])) = some (some 0x00010000, []) ∧
    seen (.ctxRd 6) (bare (.script [] [])) = some (some 0x00000000, []) := by decide +kernel

/-- R140's example. -/
theorem test_smiRd : seen (.smiRd 0x12 0x04) (bare (cell 0x12 0x04 0x1000)) =
    some (some 0x00001000, [.readCtrl 0x08000000, .writeCtrl 0x04920000, .readCtrl 0x08001000,
      .readData 0x00001000]) := by decide +kernel

/-- V-T2: success on the last allowed poll of both countdowns. -/
theorem test_smiRd_last_polls :
    (seen (.smiRd 0x12 0x04) (bare (.script (rep 7 B ++ [0] ++ rep 63 0 ++ [V]) [0xFFFF1234]))).map
      (fun p => (p.1, p.2.length)) = some (some 0x00001234, 8 + 1 + 64 + 1) := by decide +kernel

/-- V-T4 and V-T5. -/
theorem test_smiWr : seen (.smiWr 0x12 0x04 0xBEEF) (bare (.script (rep 7 B ++ [0]) [])) =
      some (some 0x00000000, List.replicate 7 (.readCtrl B) ++ [.readCtrl 0, .writeCtrl 0x0092BEEF]) ∧
    seen (.smiWr 0x12 0x04 0xBEEF) (bare (.script (rep 8 B) [])) =
      some (some 0x00030000, List.replicate 8 (.readCtrl B)) := by decide +kernel

/-- R154's example. -/
theorem test_smiFldWr : seen (.smiFldWr 0x12 0x04 12 2 1) (bare (cell 0x12 0x04 0x0000)) =
    some (some 0x00000000, [.readCtrl 0x08000000, .writeCtrl 0x04920000, .readCtrl 0x08000000, .readData 0,
      .readCtrl 0x08000000, .writeCtrl 0x00921000]) := by decide +kernel

/-- V-M2, V-M6, V-M10 (95_test_vectors.md T5). -/
theorem test_regRd : written (.regRd 3 0x04 2) (bare (.script [0, V] [0x42])) = some (some 0x42, [0x04930000]) ∧
    written (.regRd 3 0x04 0) (bare (.script [0, V] [0x42])) = some (some 0x42, [0x049F0000]) ∧
    written (.regRd 16 0x04 2) (bare (.script [0, V] [0x42])) = some (some 0x00020000, []) := by decide +kernel

/-- V-M11 and V-M8. -/
theorem test_regWr : written (.regWr 0 0x0C 4 0x007F) (bare (.script [0] [])) = some (some 0, [0x019C007F]) ∧
    written (.regWr 3 0x04 6 0x0055) (bare (.script [0] [])) = some (some 0, [0x009F0055]) := by decide +kernel

/-- V-T6: the read half succeeds, the write half times out. -/
theorem test_regFldWr : written (.regFldWr 2 0x04 2 12 2 1) (bare (.script ([0, V] ++ rep 8 B) [0x0000ABCD])) =
      some (some 0x00030000, [0x04920000]) ∧
    written (.regFldWr 2 0x04 2 12 2 1) (bare (cell 0x12 0x04 0)) =
      some (some 0x00000000, [0x04920000, 0x00921000]) := by decide +kernel

/-- R194's example; the reads of the operation register are control words 0x057B0000 (95_test_vectors.md T3). -/
theorem test_atuFlushAll : written .atuFlushAll (start (env0Start []) [(5, 0xF), (9, 2), (10, 5)]) =
      some (some 0, [0x057B0000, 0x019B052F, 0x017B9000]) ∧
    seen .atuFlushAll (bare (env0Start [])) = some (some 0x00010000, []) := by decide +kernel

/-- R195's example. -/
theorem test_atuFlushUnlocked : written .atuFlushUnlocked (start (env0Start [])) =
    some (some 0, [0x057B0000, 0x019B0000, 0x017BA000]) := by decide +kernel

/-- R196's example. -/
theorem test_atuLoadPurge : written .atuLoadPurge
      (start (env0Start []) [(0, 0x0011), (1, 0x2233), (2, 0x4455), (3, 1), (4, 0x21), (5, 0xE)]) =
    some (some 0, [0x057B0000, 0x019B021E, 0x01BB0011, 0x01DB2233, 0x01FB4455, 0x003B0001, 0x017BB000]) := by decide +kernel

/-- ATU_GET_NEXT under ENV0, as command 17 of program P2 without its busy polls. -/
theorem test_atuGetNext :
    regs .atuGetNext [0, 1, 2, 3, 4, 5, 6, 7] (start (env0Start [(cellNumber 0x1B 0x0C, 0xC21E)])
      [(0, 0x0011), (1, 0x2233), (2, 0x4454), (3, 0xF001), (4, 0xFFFF), (5, 0xFFFF), (7, 0xABCD)]) =
    some [0x0011, 0x2233, 0x4454, 0xF001, 0x0021, 0x000E, 0x0003, 0xABCD] := by decide +kernel

/-- R198's example. -/
theorem test_atuFlushAllDb : written .atuFlushAllDb (start (env0Start []) [(3, 0x1005), (5, 3)]) =
    some (some 0, [0x057B0000, 0x019B0000, 0x003B0005, 0x017BD000]) := by decide +kernel

/-- R199's example. -/
theorem test_atuFlushUnlockedDb :
    written .atuFlushUnlockedDb (start (env0Start []) [(3, 2), (5, 0xF), (9, 0x17), (10, 1)]) =
    some (some 0, [0x057B0000, 0x019B017F, 0x003B0002, 0x017BE000]) := by decide +kernel

/-- R200's example without its busy poll. -/
theorem test_atuSvcViol :
    (nextState (exec .atuSvcViol (start (.script (rep 2 V ++ [0] ++ rep 14 V)
      [0x0000, 0x7040, 0x7040, 0x0003, 0x0025, 0x0200, 0x0000, 0x0001])))).map
        (fun t => (t.response, [11, 3, 5, 0, 1, 2].map fun j => readE j t)) =
    some (some 0x00000002, [2, 3, 5, 0x0200, 0x0000, 0x0001]) := by decide +kernel

/-- R221's example. -/
theorem test_pvtWrite : written .pvtWrite (bare (env0Start []) [(12, 0x25), (13, 0x7F)]) =
    some (some 0, [0x057C0000, 0x019C007F, 0x017CB025]) := by decide +kernel

/-- R222's example. -/
theorem test_pvtRead :
    written .pvtRead (bare (env0Start [(cellNumber 0x1C 0x0B, 0x3025), (cellNumber 0x1C 0x0C, 0x7F)]) [(12, 0x25)]) =
    some (some 0x7F, [0x057C0000, 0x017CC025, 0x057C0000, 0x059C0000]) := by decide +kernel

/-- R238, R239, R240, R241's examples. -/
theorem test_port_control : written (.portState 1 3) (start (cell 0x11 4 0)) = some (some 0, [0x04910000, 0x00910003]) ∧
    written (.portFrameMode 5 1) (start (cell 0x15 4 3)) = some (some 0, [0x04950000, 0x00950103]) ∧
    written (.portVlanMembers 0 0x60) (start (cell 0x10 6 0)) = some (some 0, [0x04D00000, 0x00D00060]) ∧
    written (.portHeaderMode 5 1) (start (cell 0x15 4 0x103)) = some (some 0, [0x04950000, 0x00950903]) := by decide +kernel

/-- R242 to R245's examples. -/
theorem test_pcs : written (.pcsForceSpeed 5 2) (start (cell 0x15 1 3)) = some (some 0, [0x04350000, 0x00350002]) ∧
    written (.pcsForceDuplex 5 3) (start (cell 0x15 1 2)) = some (some 0, [0x04350000, 0x0035000E]) ∧
    written (.pcsForceFc 5 3) (start (cell 0x15 1 0x3E)) = some (some 0, [0x04350000, 0x003500FE]) ∧
    written (.pcsForceLink 5 3) (start (cell 0x15 1 0xE)) = some (some 0, [0x04350000, 0x0035003E]) := by decide +kernel

/-- The rows of 95_test_vectors.md T10 for PORT_JUMBO. -/
theorem test_portJumbo : written (.portJumbo 3 1523) (start (cell 0x13 8 0)) = some (some 1, [0x05130000, 0x01131000]) ∧
    written (.portJumbo 3 1522) (start (cell 0x13 8 0x3000)) = some (some 0, [0x05130000, 0x01130000]) ∧
    written (.portJumbo 3 2049) (start (cell 0x13 8 0)) = some (some 2, [0x05130000, 0x01132000]) := by decide +kernel

/-- R249's example. -/
theorem test_phyPower :
    written (.phyPower 3 0) (start (env0Start [(cellNumber 3 0, 0x1140), (cellNumber 3 0x10, 0x3060)])) =
    some (some 0, [0x02C30000, 0x04030000, 0x00031940, 0x06030000, 0x02033064, 0x02C30000]) := by decide +kernel

/-- V-P6: a time-out in the bits, and the page restored. -/
theorem test_phyPower_failure :
    written (.phyPower 3 0) (start (.script ([0, 0, V, 0, 0] ++ rep 64 0 ++ [0]) [0x00001140])) =
    some (some 0x00030000, [0x02C30000, 0x04030000, 0x00031940, 0x06030000, 0x02C30000]) := by decide +kernel

/-- V-P3, V-P4, V-P5 (95_test_vectors.md T9): refused arguments. -/
theorem test_port_arguments : seen (.portFrameMode 5 4) (start (env0Start [])) = some (some 0x00040000, []) ∧
    seen (.phyPower 3 2) (start (env0Start [])) = some (some 0x00040000, []) ∧
    seen (.portVlanMembers 0 0x80) (start (env0Start [])) = some (some 0x00040000, []) := by decide +kernel

/-! ## Tables of 95_test_vectors.md -/

theorem test_T1_fieldMask : fieldMask 0 15 = 0x7FFF ∧ fieldMask 0 31 = 0xFFFF ∧ fieldMask 12 2 = 0x3000 ∧
    fieldMask 12 8 = 0xF000 ∧ fieldMask 15 16 = 0x8000 ∧ fieldMask 7 9 = 0xFF80 ∧ fieldMask 5 17 = 0xFFE0 ∧
    fieldMask 3 0 = 0x0000 ∧ fieldMask 8 8 = 0xFF00 := by decide

theorem test_T2_mergeField : mergeField 0xFFFF 4 4 0x5 = 0xFF5F ∧ mergeField 0xFFFF 4 4 0x1F = 0xFFFF ∧
    mergeField 0xFFFF 8 4 0x100 = 0xF0FF ∧ mergeField 0xA5A5 8 4 0x3 = 0xA3A5 ∧
    mergeField 0x1234 12 8 0xAB = 0xB234 ∧ mergeField 0x0F0F 14 3 0x7 = 0xCF0F ∧
    mergeField 0x00FF 3 0 0x1 = 0x00FF := by decide

theorem test_T3_control_words : cwRead cfg0 0x1F 0x1F = 0x07FF0000 ∧ cwWrite cfg0 0x1F 0x1F 0xA5A5 = 0x03FFA5A5 ∧
    cwRead cfg0 0x1C 0x0C = 0x059C0000 ∧ cwWrite cfg0 0x10 0x04 0xA5A5 = 0x0090A5A5 := by decide

theorem test_T7_packAtuData : packAtuData (start (.script [] []) [(4, 0xFF), (5, 0xF), (6, 1)]) = 0x47FF ∧
    packAtuData (start (.script [] []) [(4, 0x21), (5, 0x1E), (6, 7)]) = 0xC21E := by decide

/-- V-H2: a flush whose post-wait is not made, and the first poll of the next command finds the table busy. -/
theorem test_H2_waits :
    (nextState (exec .atuFlushUnlocked (start (.env0
      { sw := [(cellNumber 0x1B 0x0B, 0x9000)], rl := 0, delay := some 2, atuBusy := some 2, pvtBusy := none })))).map
        (fun t => (t.response, t.seq, t.history.getLast?)) =
    some (none, .waiting .atuFlushUnlocked .pre 1, some (.readData 0x9000)) := by decide

/-! ## The step -/

/-- A word placed at the command port of the reset machine runs (log 6). -/
theorem test_withFetchWord :
    (nextState (step (State.reset.withFetchWord 64 0x010000000005000F))).map
      (fun t => (t.response, readE 5 t, t.commands)) = some (some 0, 0x000F, []) := by decide

/-- A reset that lands after two accesses of SMI_RD (70_reset_and_hazards.md R296). -/
theorem test_reset_mid_command :
    (nextState (step { bare (.script [0, V] [0x42]) with commands := [0x1012040000000000], resetIn := some 2 })).map
      (fun t => (t.response, t.history, t.env, t.resets)) =
    some (none, [.readCtrl 0, .writeCtrl 0x04920000], .script [V] [0x42], 1) := by decide

/-! ## Witnesses -/

/-- CFG0 with the second wait for every opcode. -/
def cfgPost : Config := { cfg0 with postWaitAll := true }
/-- CFG0 with a bound on the table wait. -/
def cfgBound (b : Nat) : Config := { cfg0 with tableWaitBound := some b }
/-- CFG0 without the read-back of a violation of kind None. -/
def cfgSkip : Config := { cfg0 with atu := { atu0 with violNoneSkipsReadback := true } }

theorem cfgPost_wf : cfgPost.WF :=
  ⟨cfg0_wf.bus, cfg0_wf.map, cfg0_wf.atu, cfg0_wf.pvt, cfg0_wf.port, cfg0_wf.power_fits, cfg0_wf.bound_pos⟩

theorem cfgBound_wf (b : Nat) : (cfgBound (b + 1)).WF :=
  ⟨cfg0_wf.bus, cfg0_wf.map, cfg0_wf.atu, cfg0_wf.pvt, cfg0_wf.port, cfg0_wf.power_fits,
    by intro c h; cases h; omega⟩

theorem cfgSkip_wf : cfgSkip.WF :=
  ⟨cfg0_wf.bus, cfg0_wf.map,
    ⟨cfg0_wf.atu.mac_fits, cfg0_wf.atu.ops_distinct, cfg0_wf.atu.ops_nonzero, cfg0_wf.atu.state_fits,
      cfg0_wf.atu.prio_fits, cfg0_wf.atu.pv_fits, cfg0_wf.atu.state_prio, cfg0_wf.atu.trunk_fits,
      cfg0_wf.atu.viol_fits⟩,
    cfg0_wf.pvt, cfg0_wf.port, cfg0_wf.power_fits, cfg0_wf.bound_pos⟩

/-- The answers of a read of `d` whose polls end at once. -/
def ans (d : Word) : ReadAnswer := ⟨V, V, d⟩

theorem ready_V : Ready cfg0 V := ⟨by decide, by decide⟩
theorem prompt_ans (d : Word) : (ans d).Prompt cfg0 := ⟨ready_V, ready_V⟩
theorem shows_ans (d : Word) : (ans d).Shows cfg0 ((ans d).value.getLsbD 15) := ⟨prompt_ans d, rfl⟩
theorem shows_ready : (ans 0x3000).Shows cfg0 false := ⟨prompt_ans _, by decide⟩
theorem shows_busy : (ans 0x9000).Shows cfg0 true := ⟨prompt_ans _, by decide⟩

theorem all_busy (n : Nat) : ∀ x ∈ rep n B, x.getLsbD cfg0.bus.busyBit = true := by
  intro x hx
  obtain rfl := List.eq_of_mem_replicate hx
  decide

theorem all_late (n : Nat) : ∀ x ∈ rep n 0, x.getLsbD cfg0.bus.rvalidBit = false := by
  intro x hx
  obtain rfl := List.eq_of_mem_replicate hx
  decide

/-- A block whose next commands are `ws`. -/
def hosting (ws : List Command) (s : State) : State := { s with commands := ws }

theorem witness_DecodeEncodeRoundTrip : (Instr.ctxRd 6).wf = true ∧ decode (encode (.ctxRd 6)) = .ok (.ctxRd 6) ∧
    decode (encode (.regFldWr 255 31 7 15 31 0xFFFF)) = .ok (.regFldWr 255 31 7 15 31 0xFFFF) := by decide

theorem witness_EncodeDecodeRoundTrip : decode 0x5903000000000001 = .ok (.phyPower 3 1) := by decide

/-- One word for each cause R88 lists, and a legal one. -/
theorem witness_IllegalWordAnswersBadParameter :
    IllegalWord 0x3000000000000000 ∧ IllegalWord 0x0300002000000000 ∧ IllegalWord 0x0300000080000000 ∧
    IllegalWord 0x0300000000100000 ∧ IllegalWord 0x0200000000050001 ∧ IllegalWord 0x0400000000070000 ∧
    ¬ IllegalWord 0x0400000000060000 ∧
    (hosting [0x3000000000000000] (bare (.script [] []))).seq = .idle ∧
    (hosting [0x3000000000000000] (bare (.script [] []))).resetIn = none ∧
    nextState (step (hosting [0x3000000000000000] (bare (.script [] [])))) =
      some { bare (.script [] []) with response := some 0x00040000 } := by
  refine ⟨.inl (by decide), .inr (.inl (by decide)), .inr (.inr (.inl (by decide))),
    .inr (.inr (.inr (.inl (by decide)))),
    .inr (.inr (.inr (.inr (.inl ⟨fmtE0, by decide, .inr (.inr (.inr (.inr (.inr (.inr (by decide))))))⟩)))),
    .inr (.inr (.inr (.inr (.inr (by decide))))), ?_, rfl, rfl, by decide +kernel⟩
  rintro (h | h | h | h | ⟨f, hf, h⟩ | h)
  · exact absurd h (by decide)
  · exact absurd h (by decide)
  · exact absurd h (by decide)
  · exact absurd h (by decide)
  · rw [show opcodeFormat (fieldOp 0x0400000000060000) = some fmtE0 from by decide] at hf
    obtain rfl : fmtE0 = f := Option.some.inj hf
    rcases h with h | h | h | h | h | h | h <;> exact absurd h (by decide)
  · exact absurd h (by decide)

/-- The step without a reset due, and with one due after one more access. -/
theorem witness_StepRunsDecodedCommand :
    decode 0x0200000000050000 = .ok (.rde 5) ∧
    nextState (step (hosting [0x0200000000050000] (bare (.script [] [])))) =
      nextState (exec (.rde 5) (bare (.script [] []))) ∧
    (nextState (exec (.rde 5) { bare (.script [] []) with resetIn := some 1 })).map
      (resetWithin 1 { hosting [0x0200000000050000] (bare (.script [] [])) with resetIn := some 1 }) =
      nextState (step { hosting [0x0200000000050000] (bare (.script [] [])) with resetIn := some 1 }) :=
  ⟨by decide, by decide +kernel, by decide +kernel⟩

/-- SMI_RD access by access: accepted, then the four accesses of R140's example, then the response. -/
theorem test_accessSteps :
    (List.range 7).map (fun n => (nextState (accessSteps n (hosting [0x1012040000000000] (bare (cell 0x12 4 0x1000))))).map
      (fun t => (t.history.length, t.response, t.commands.length, decide (t.seq = .idle)))) =
    [some (0, none, 1, true), some (0, none, 0, false), some (1, none, 0, false), some (2, none, 0, false),
     some (3, none, 0, false), some (4, none, 0, false), some (4, some 0x00001000, 0, true)] := by decide +kernel

/-- A state between two accesses of SMI_RD: read-valid is polled with 64 reads left (10_state.md R25). -/
theorem test_running_state :
    (nextState (accessSteps 3 (hosting [0x1012040000000000] (bare (.script [0, V] [0x42]))))).map State.seq =
    some (.running { status := .ok, last := 0, trans := some ⟨.read 0x12 4, .rvalid 64⟩, todo := [.answerLast] }) := by
  decide +kernel

/-- A block in IDLE with a word presented, and one in a wait: neither is between two accesses, both meet the
invariant. -/
theorem witness_AccessStepIsOneOfThree :
    ∃ s : State, s.cfg.WF ∧ Inv s ∧ s.resetIn = none ∧
      (nextState (accessStep s)).map (fun t => t.history) = some [.readCtrl V] := by
  refine ⟨{ start (.script [V] []) with seq := .waiting .pvtRead .post 1 }, cfg0_wf, ?_, rfl, by decide +kernel⟩
  refine ⟨fun _ => by decide, fun rw h => absurd h (by simp [start, State.reset]), fun c ph k h => ?_,
    fun w h => absurd h (by simp), fun w h => absurd h (by simp [start, State.reset]), trivial⟩
  obtain ⟨rfl, rfl, rfl⟩ : TableCmd.pvtRead = c ∧ WaitPhase.post = ph ∧ 1 = k := by simpa using h
  exact ⟨by decide, rfl, fun _ => .inl rfl, fun h => absurd h (by decide), rfl⟩

/-- An idle block with a word presented, and its step reached access by access. -/
theorem witness_AccessStepsMakeTheStep :
    ∃ s : State, s.seq = .idle ∧ s.commands = [0x111204000000BEEF] ∧
      nextState (step s) = nextState (accessSteps 4 s) ∧ (nextState (step s)).isSome = true :=
  ⟨hosting [0x111204000000BEEF] (bare (.script [0] [])), rfl, rfl, by decide +kernel, by decide +kernel⟩

theorem witness_WaitingBlockTakesNoCommand :
    ∃ s : State, s.seq = .waiting .pvtRead .post 2 ∧ s.resetIn = none ∧ s.commands = [0] :=
  ⟨{ bare (.script [] []) with seq := .waiting .pvtRead .post 2, commands := [0] }, rfl, rfl, rfl⟩

theorem witness_ResetLeavesAnIdleBlockThatWaits :
    (bare (.script [] [])).seq = .idle ∧ (bare (.script [] [])).commands = [] ∧ (bare (.script [] [])).resetIn = none :=
  ⟨rfl, rfl, rfl⟩

/-- A reset that ends a wait at once, and one due later on a block with nothing to do. -/
theorem witness_ResetInputResetsAtOnce :
    (∃ s : State, s.resetIn = some 0 ∧ s.seq = .waiting .atuFlushAll .pre 1 ∧
      (nextState (step s)).map State.seq = some .idle) ∧
    (∃ s : State, s.resetIn = some 3 ∧ s.seq = .idle ∧ s.commands = [] ∧
      (nextState (step s)).map State.resets = some 1) :=
  ⟨⟨{ start (.script [] []) with seq := .waiting .atuFlushAll .pre 1, resetIn := some 0 }, rfl, rfl, by decide +kernel⟩,
   ⟨{ start (.script [] []) with resetIn := some 3 }, rfl, rfl, rfl, by decide +kernel⟩⟩

/-- SMI_WR makes two accesses: a reset due after the second lands, one due after the third does not. -/
theorem witness_ResetMidCommandKeepsAccessesMade :
    (∃ s : State, s.resetIn = some 2 ∧ ¬ (s.seq = .idle ∧ s.commands = []) ∧
      (nextState (advance s)).map (fun u => decide (s.history.length + 2 ≤ u.history.length)) = some true) ∧
    (∃ s : State, s.resetIn = some 3 ∧ ¬ (s.seq = .idle ∧ s.commands = []) ∧
      (nextState (advance s)).map (fun u => decide (u.history.length < s.history.length + 3)) = some true) :=
  ⟨⟨{ hosting [0x111204000000BEEF] (bare (.script [0] [])) with resetIn := some 2 }, rfl,
      fun h => absurd h.2 (List.cons_ne_nil _ _), by decide +kernel⟩,
   ⟨{ hosting [0x111204000000BEEF] (bare (.script [0] [])) with resetIn := some 3 }, rfl,
      fun h => absurd h.2 (List.cons_ne_nil _ _), by decide +kernel⟩⟩

theorem witness_BusyPollBound : 1 ≤ (bare (.script (rep 8 B) [])).cfg.bus.busyPollMax ∧
    (pollBusy (bare (.script (rep 8 B) []))).1 = .error .timeout ∧
    (pollBusy (bare (.script (rep 7 B ++ [0]) []))).1 = .ok () := by decide +kernel

theorem witness_ReadValidPollBound :
    (bare (.script [0, V] [])).cfg.bus.busyPollMax < (bare (.script [0, V] [])).cfg.bus.rvalidPollMax ∧
    (pollValid (bare (.script [0, V] []))).1 = .ok () := by decide +kernel

/-- Both sides of the bound: device 32 fails, device 31 does not. -/
theorem witness_AddressCheckTouchesNothing : (bare (cell 31 31 5)).cfg.bus.WF ∧
    (smiRead 32 4 (bare (cell 31 31 5))).1 = .error .invalidAddress ∧
    (smiRead 31 31 (bare (cell 31 31 5))).1 = .ok 5 := ⟨bus0_wf, by decide +kernel, by decide +kernel⟩

theorem witness_ControlWordCarriesItsFields : cfg0.bus.WF ∧ 31 < 32 ∧
    (cwWrite cfg0 31 31 0xFFFF).extractLsb' cfg0.bus.devShift 5 = BitVec.ofNat 5 31 := ⟨bus0_wf, by decide, by decide⟩

/-- One busy answer and one late answer before the datum. -/
theorem witness_SmiRdAnswersTheDatum :
    (bare (.script [B, 0, 0, V] [0xFFFF1234])).cfg.bus.WF ∧ (0x12 : BitVec 8).toNat < 32 ∧
    (∀ x ∈ [B], x.getLsbD cfg0.bus.busyBit = true) ∧ (∀ x ∈ [(0 : Word)], x.getLsbD cfg0.bus.rvalidBit = false) ∧
    [B].length < cfg0.bus.busyPollMax ∧ [(0 : Word)].length < cfg0.bus.rvalidPollMax ∧
    nextState (exec (.smiRd 0x12 4) (bare (.script [B, 0, 0, V] [0xFFFF1234]))) =
      some (answered (bare (.script [B, 0, 0, V] [0xFFFF1234])) .ok 0x1234 [] []
        [.readCtrl B, .readCtrl 0, .writeCtrl 0x04920000, .readCtrl 0, .readCtrl V, .readData 0xFFFF1234]) :=
  ⟨bus0_wf, by decide, all_busy 1, all_late 1, by decide, by decide, by decide +kernel⟩

theorem witness_SmiWrIssuesTheControlWord :
    (bare (.script [B, 0] [])).cfg.bus.WF ∧ (∀ x ∈ [B], x.getLsbD cfg0.bus.busyBit = true) ∧
    nextState (exec (.smiWr 0x12 4 0xBEEF) (bare (.script [B, 0] []))) =
      some (answered (bare (.script [B, 0] [])) .ok 0 [] [] [.readCtrl B, .readCtrl 0, .writeCtrl 0x0092BEEF]) :=
  ⟨bus0_wf, all_busy 1, by decide +kernel⟩

/-- A register access in its busy poll at the largest legal address (V-T1), a read in its second countdown (V-T3), a field
write in its write half (V-T6), a port-configuration command in its read half. -/
theorem witness_RegisterCommandsTimeOut :
    registerUse (bare (.script [] [])) (.regWr 15 4 2 0) = some (.write 31 4) ∧
    (RegisterUse.write 31 4).TimesOut cfg0 (rep 8 B) [] ((rep 8 B).map BusEvent.readCtrl) ∧
    (RegisterUse.read 0x12 4).TimesOut cfg0 ([B, 0] ++ rep 64 0) []
      ([.readCtrl B, .readCtrl 0, .writeCtrl 0x04920000] ++ (rep 64 0).map BusEvent.readCtrl) ∧
    (RegisterUse.field 0x12 4).TimesOut cfg0 ((ans 0xABCD).ctrl ++ rep 8 B) [0xABCD]
      ((ans 0xABCD).trace cfg0 0x12 4 ++ (rep 8 B).map BusEvent.readCtrl) ∧
    nextState (exec (.regFldWr 2 4 2 12 2 1) (bare (.script ([V, V] ++ rep 8 B) [0xABCD]))) =
      some (answered (bare (.script ([V, V] ++ rep 8 B) [0xABCD])) .timeout 0 [] []
        ((ans 0xABCD).trace cfg0 0x12 4 ++ (rep 8 B).map BusEvent.readCtrl)) ∧
    registerUse (start (.script [] [])) (.portState 1 3) = some (.field 0x11 4) ∧
    (RegisterUse.field 0x11 4).TimesOut cfg0 (rep 8 B) [] ((rep 8 B).map BusEvent.readCtrl) :=
  ⟨by decide, ⟨rfl, all_busy 8, by decide, rfl⟩,
   ⟨rfl, .inr ⟨[B], 0, rep 64 0, rfl, all_busy 1, by decide, by decide, all_late 64, by decide, by decide +kernel⟩⟩,
   .inr ⟨ans 0xABCD, rep 8 B, _, prompt_ans _, ⟨all_busy 8, by decide, rfl⟩, rfl, rfl, rfl⟩, by decide +kernel, by decide,
   .inl ⟨rfl, .inl ⟨all_busy 8, by decide, rfl⟩⟩⟩

theorem witness_RegisterCommandsRefuseWideAddress :
    directDevice cfg0 (.smiFldWr 32 4 0 1 1) = some 32 ∧ directDevice cfg0 (.regRd 16 4 2) = some 32 ∧
    nextState (exec (.regRd 16 4 2) (bare (.script [] []))) =
      some { bare (.script [] []) with response := some 0x00020000, seq := .idle } := by
  decide +kernel

theorem witness_Env0HoldsWhatIsWritten :
    (bare (cell 0x1B 0x0B 7)).cfg.bus = cfg0.bus ∧ (∃ e, (bare (cell 0x1B 0x0B 7)).env = .env0 e ∧ Memory.wf e.sw = true) ∧
    (0x1B : BitVec 8).toNat < 32 ∧ isAtuOperation cfg0 0x1B 0x0B = true ∧ isAtuOperation cfg0 0x12 0x0B = false :=
  ⟨rfl, ⟨_, rfl, by decide⟩, by decide, by decide, by decide⟩

theorem witness_FieldMaskBits : (15 : Nat) < 16 ∧ (fieldMask 15 1).getLsbD 15 = true ∧
    (fieldMask 14 1).getLsbD 15 = false := by decide

/-- A bit inside the mask and one outside. -/
theorem witness_FieldMergeKeepsBitsOutside : (15 : Nat) < 16 ∧ (fieldMask 12 4).getLsbD 15 = true ∧
    (fieldMask 12 2).getLsbD 15 = false ∧ mergeField 0x0000 12 2 1 = 0x1000 := by decide

theorem witness_KindCodesDecode : ((7 : BitVec 3) = 0 ∨ (7 : BitVec 3) = 6 ∨ (7 : BitVec 3) = 7) ∧
    decodeKind { cfg0 with map := { map0 with kindCodeGlobal3 := some 7 } } 7 = .global3 := by decide

/-- The ends of each range of nibbles. -/
theorem witness_TableWordLayouts_kinds : ((3 : BitVec 4) = 2 ∨ (3 : BitVec 4) = 3) ∧ 4 ≤ (7 : BitVec 4).toNat ∧
    (7 : BitVec 4).toNat ≤ 7 ∧ 8 ≤ (15 : BitVec 4).toNat ∧ violKind 7 = 2 ∧ violKind 8 = 1 := by decide

/-- LDE on E[0], another register read. -/
theorem witness_LdeWritesOneRegister : (15 : BitVec 4) ≠ 0 ∧
    regs (.lde 0 7) [0, 15] (bare (.script [] []) [(15, 9)]) = some [7, 9] := by decide

theorem witness_SmiFldWrWritesTheMergedField :
    (ans 0x1234).Prompt cfg0 ∧ Ready cfg0 V ∧
    nextState (exec (.smiFldWr 0x12 4 12 8 0xAB) (bare (.script [V, V, V] [0x1234]))) =
      some (answered (bare (.script [V, V, V] [0x1234])) .ok 0 [] []
        ((ans 0x1234).trace cfg0 0x12 4 ++ writeTrace cfg0 0x12 4 0xB234 V)) := ⟨prompt_ans _, ready_V, by decide +kernel⟩

/-- The three commands, the first with an unknown kind. -/
theorem witness_MappedAccessCompletes :
    mapAddress cfg0 3 (decodeKind cfg0 7) < 32 ∧ (ans 0x42).Prompt cfg0 ∧
    nextState (exec (.regRd 3 4 7) (bare (.script [V, V] [0x42]))) =
      some (answered (bare (.script [V, V] [0x42])) .ok 0x42 [] [] ((ans 0x42).trace cfg0 0x1F 4)) ∧
    nextState (exec (.regWr 3 4 2 9) (bare (.script [V] []))) =
      some (answered (bare (.script [V] [])) .ok 0 [] [] (writeTrace cfg0 0x13 4 9 V)) ∧
    nextState (exec (.regFldWr 3 4 2 0 4 9) (bare (.script [V, V, V] [0x42]))) =
      some (answered (bare (.script [V, V, V] [0x42])) .ok 0 [] []
        ((ans 0x42).trace cfg0 0x13 4 ++ writeTrace cfg0 0x13 4 0x49 V)) :=
  ⟨by decide, prompt_ans _, by decide +kernel, by decide +kernel, by decide +kernel⟩

theorem witness_CtxInitBuildsTheContext :
    readE 0 (bare (.script [] []) [(0, 1)]) ∈ (bare (.script [] []) [(0, 1)]).cfg.supportedIds ∧
    readE 0 (bare (.script [] []) [(0, 2)]) ∉ (bare (.script [] []) [(0, 2)]).cfg.supportedIds := by decide

theorem witness_CtxRdAnswersTheField : (start (.script [] [])).ctx.valid = true ∧
    (bare (.script [] [])).ctx.valid = false ∧ (5 : BitVec 4).toNat ≤ 5 := by decide

/-- A command that needs the context without one, and one that needs none. -/
theorem witness_MissingContextAnswersFail :
    readsContext .atuSvcViol = true ∧ (bare (.script [] [])).ctx.valid = false ∧
    readsContext (.ctxRd 6) = false ∧ (Instr.ctxRd 6).wf = true ∧ (bare (.script [] [])).response = none ∧
    (nextState (exec (.ctxRd 6) (bare (.script [] [])))).map State.response = some (some 0) :=
  ⟨rfl, rfl, rfl, rfl, rfl, by decide +kernel⟩

theorem witness_TableWordLayouts_flush :
    (readE 5 (start (.script [] []) [(5, 0x1F), (9, 0x12), (10, 5)])).extractLsb' 0 4 = 0xF#4 ∧
    flushData (start (.script [] []) [(5, 0x1F), (9, 0x12), (10, 5)]) = 0x052F ∧
    (readE 5 (start (.script [] []) [(5, 0xE), (9, 2)])).extractLsb' 0 4 ≠ 0xF#4 := by decide

/-- The lowest bit of each field of the data word, and a bit of none of them in this state. -/
theorem witness_PackedEntryUnpacks_layout :
    packAtuData (start (.script [] []) [(4, 1), (5, 1), (6, 1)]) = 0x4011 ∧
    cfg0.atu.trunkBit = none ∧ (0 : BitVec 4) ≠ 4 ∧ readE 0 (unpackAtuData 0xFFFF (start (.script [] []))) = 0 ∧
    readE 4 (unpackAtuData 0xFFFF (start (.script [] []))) = 0x7F := by decide

/-- The widest vector that stays clear of the priority field (95_test_vectors.md T7). -/
theorem witness_PackedEntryUnpacks :
    ∃ s : State, s.cfg.atu.WF ∧ s.ctx.portCount = 10 ∧ s.cfg.atu.pvLsb + s.ctx.portCount.toNat ≤ 16 ∧
      s.cfg.atu.stateLsb + 4 ≤ s.cfg.atu.pvLsb ∧ s.cfg.atu.pvLsb + s.ctx.portCount.toNat ≤ s.cfg.atu.prioLsb ∧
      s.cfg.atu.trunkBit = none :=
  ⟨{ start (.script [] []) with ctx := { ctx0 with portCount := 10 } }, cfg0_wf.atu, rfl, by decide, by decide,
    by decide, rfl⟩

/-- Without the second wait, and with it under POST_WAIT_ALL. -/
theorem witness_AtuFlushCompletes :
    (start (.script [V, V, V, V] [0x3000])).cfg.WF ∧ (ans 0x3000).Shows cfg0 false ∧
    nextState (exec .atuFlushAll (start (.script [V, V, V, V] [0x3000]))) =
      some (answered (start (.script [V, V, V, V] [0x3000])) .ok 0 [] []
        ((ans 0x3000).trace cfg0 0x1B 0x0B ++ writeTrace cfg0 0x1B 0x0C 0 V ++ writeTrace cfg0 0x1B 0x0B 0x9000 V)) ∧
    cfgPost.WF ∧ (ans 0x3000).Shows cfgPost false ∧
    nextState (exec .atuFlushUnlocked { start (.script (rep 6 V) [0x3000, 0x3000]) with cfg := cfgPost }) =
      some (answered { start (.script (rep 6 V) [0x3000, 0x3000]) with cfg := cfgPost } .ok 0 [] []
        ((ans 0x3000).trace cfg0 0x1B 0x0B ++ writeTrace cfg0 0x1B 0x0C 0 V ++ writeTrace cfg0 0x1B 0x0B 0xA000 V ++
          (ans 0x3000).trace cfg0 0x1B 0x0B)) :=
  ⟨cfg0_wf, shows_ready, by decide +kernel, cfgPost_wf, shows_ready, by decide +kernel⟩

theorem witness_AtuFlushDatabaseCompletes :
    (start (.script (rep 5 V) [0x3000])).cfg.WF ∧ (∀ c ∈ [V, V, V], Ready cfg0 c) ∧
    nextState (exec .atuFlushUnlockedDb (start (.script (rep 5 V) [0x3000]) [(3, 0x1005)])) =
      some (answered (start (.script (rep 5 V) [0x3000]) [(3, 0x1005)]) .ok 0 [] []
        ((ans 0x3000).trace cfg0 0x1B 0x0B ++ writeTrace cfg0 0x1B 0x0C 0 V ++ writeTrace cfg0 0x1B 0x01 0x0005 V ++
          writeTrace cfg0 0x1B 0x0B 0xE000 V)) :=
  ⟨cfg0_wf, by simp [ready_V], by decide +kernel⟩

theorem witness_AtuLoadPurgeCompletes :
    (start (.script (rep 8 V) [0x3000])).cfg.WF ∧ (∀ c ∈ rep 6 V, Ready cfg0 c) ∧
    nextState (exec .atuLoadPurge (start (.script (rep 8 V) [0x3000]) [(0, 0x0011), (1, 0x2233), (2, 0x4455), (3, 1), (5, 0xE)])) =
      some (answered (start (.script (rep 8 V) [0x3000]) [(0, 0x0011), (1, 0x2233), (2, 0x4455), (3, 1), (5, 0xE)])
        .ok 0 [] [] ((ans 0x3000).trace cfg0 0x1B 0x0B ++ writeTrace cfg0 0x1B 0x0C 0x000E V ++
          writeTrace cfg0 0x1B 0x0D 0x0011 V ++ writeTrace cfg0 0x1B 0x0E 0x2233 V ++
          writeTrace cfg0 0x1B 0x0F 0x4455 V ++ writeTrace cfg0 0x1B 0x01 0x0001 V ++
          writeTrace cfg0 0x1B 0x0B 0xB000 V)) :=
  ⟨cfg0_wf, by simp [rep, ready_V], by decide +kernel⟩

theorem witness_AtuGetNextCompletes :
    (start (.script (rep 17 V) [0x3000, 0x4000, 0xC21E, 1, 2, 3])).cfg.WF ∧ (ans 0xC21E).Prompt cfg0 ∧
    nextState (exec .atuGetNext (start (.script (rep 17 V) [0x3000, 0x4000, 0xC21E, 1, 2, 3]))) =
      some (answered (storedEntry (start (.script (rep 17 V) [0x3000, 0x4000, 0xC21E, 1, 2, 3])) 0xC21E 1 2 3) .ok 0 [] []
        ((ans 0x3000).trace cfg0 0x1B 0x0B ++ writeTrace cfg0 0x1B 0x0D 0 V ++ writeTrace cfg0 0x1B 0x0E 0 V ++
          writeTrace cfg0 0x1B 0x0F 0 V ++ writeTrace cfg0 0x1B 0x01 0 V ++ writeTrace cfg0 0x1B 0x0B 0xC000 V ++
          (ans 0x4000).trace cfg0 0x1B 0x0B ++ (ans 0xC21E).trace cfg0 0x1B 0x0C ++ (ans 1).trace cfg0 0x1B 0x0D ++
          (ans 2).trace cfg0 0x1B 0x0E ++ (ans 3).trace cfg0 0x1B 0x0F)) := ⟨cfg0_wf, prompt_ans _, by decide +kernel⟩

/-- A violation read back, and kind None with the read-back left out. -/
theorem witness_AtuSvcViolCompletes :
    (start (.script (rep 17 V) [0x3000, 0x7040, 0x7040, 3, 0x25, 0x200, 0, 1])).cfg.WF ∧
    violKind (violNibble cfg0 (ans 0x7040).value) = 2 ∧
    nextState (exec .atuSvcViol (start (.script (rep 17 V) [0x3000, 0x7040, 0x7040, 3, 0x25, 0x200, 0, 1]))) =
      some (answered (storedViolation (start (.script (rep 17 V) [0x3000, 0x7040, 0x7040, 3, 0x25, 0x200, 0, 1]))
          2 3 0x25 0x200 0 1) .ok 2 [] []
        ((ans 0x3000).trace cfg0 0x1B 0x0B ++ writeTrace cfg0 0x1B 0x0B 0xF000 V ++ (ans 0x7040).trace cfg0 0x1B 0x0B ++
          (ans 0x7040).trace cfg0 0x1B 0x0B ++ (ans 3).trace cfg0 0x1B 0x01 ++ (ans 0x25).trace cfg0 0x1B 0x0C ++
          (ans 0x200).trace cfg0 0x1B 0x0D ++ (ans 0).trace cfg0 0x1B 0x0E ++ (ans 1).trace cfg0 0x1B 0x0F)) ∧
    cfgSkip.WF ∧ violKind (violNibble cfgSkip (ans 0x7000).value) = 0 ∧
    nextState (exec .atuSvcViol { start (.script (rep 7 V) [0x3000, 0x7000, 0x7000]) with cfg := cfgSkip }) =
      some (answered (writeE 11 0 { start (.script (rep 7 V) [0x3000, 0x7000, 0x7000]) with cfg := cfgSkip }) .ok 0 [] []
        ((ans 0x3000).trace cfg0 0x1B 0x0B ++ writeTrace cfg0 0x1B 0x0B 0xF000 V ++ (ans 0x7000).trace cfg0 0x1B 0x0B ++
          (ans 0x7000).trace cfg0 0x1B 0x0B)) := ⟨cfg0_wf, by decide, by decide +kernel, cfgSkip_wf, by decide, by decide +kernel⟩

theorem witness_PvtWriteCompletes :
    (bare (.script (rep 4 V) [0x3000])).cfg.WF ∧ (ans 0x3000).Shows cfg0 false ∧
    nextState (exec .pvtWrite (bare (.script (rep 4 V) [0x3000]) [(12, 0xF123), (13, 0x7F)])) =
      some (answered (bare (.script (rep 4 V) [0x3000]) [(12, 0xF123), (13, 0x7F)]) .ok 0 [] []
        ((ans 0x3000).trace cfg0 0x1C 0x0B ++ writeTrace cfg0 0x1C 0x0C 0x7F V ++ writeTrace cfg0 0x1C 0x0B 0xB123 V)) :=
  ⟨cfg0_wf, shows_ready, by decide +kernel⟩

theorem witness_PvtReadCompletes :
    (bare (.script (rep 7 V) [0x3000, 0x4025, 0x7F])).cfg.WF ∧ (ans 0x7F).Prompt cfg0 ∧
    nextState (exec .pvtRead (bare (.script (rep 7 V) [0x3000, 0x4025, 0x7F]) [(12, 0x25)])) =
      some (answered (writeE 13 0x7F (bare (.script (rep 7 V) [0x3000, 0x4025, 0x7F]) [(12, 0x25)])) .ok 0x7F [] []
        ((ans 0x3000).trace cfg0 0x1C 0x0B ++ writeTrace cfg0 0x1C 0x0B 0xC025 V ++ (ans 0x4025).trace cfg0 0x1C 0x0B ++
          (ans 0x7F).trace cfg0 0x1C 0x0C)) := ⟨cfg0_wf, prompt_ans _, by decide +kernel⟩

/-- A command that enters its first wait, one that stays in its second, and one that enters its second. -/
theorem witness_BusyTableKeepsTheCommandWaiting :
    (start (.script [V, V] [0x9000])).cfg.WF ∧ (ans 0x9000).Shows cfg0 true ∧ waitExhausted cfg0 1 = false ∧
    nextState (exec (latchedCommand .atuGetNext) (start (.script [V, V] [0x9000]))) =
      some { busMoved (start (.script [V, V] [0x9000])) [] [] ((ans 0x9000).trace cfg0 0x1B 0x0B) with
        seq := .waiting .atuGetNext .pre 1 } ∧
    nextState (step { start (.script [V, V] [0x9000]) with seq := .waiting .pvtRead .post 4 }) =
      some { busMoved { start (.script [V, V] [0x9000]) with seq := .waiting .pvtRead .post 4 } [] []
        ((ans 0x9000).trace cfg0 0x1C 0x0B) with seq := .waiting .pvtRead .post 5 } ∧
    (tablePlan cfg0 .pvtRead).commit (start (.script (rep 5 V) [0x3000, 0x9000])) = [(0x0B, 0xC000)] ∧
    nextState (exec (latchedCommand .pvtRead) (start (.script (rep 5 V) [0x3000, 0x9000]))) =
      some { busMoved (start (.script (rep 5 V) [0x3000, 0x9000])) [] []
        ((ans 0x3000).trace cfg0 0x1C 0x0B ++ commitTrace cfg0 0x1C [((0x0B, 0xC000), V)] ++
          (ans 0x9000).trace cfg0 0x1C 0x0B) with seq := .waiting .pvtRead .post 1 } :=
  ⟨cfg0_wf, shows_busy, rfl, by decide +kernel, by decide +kernel, by decide, by decide +kernel⟩

theorem witness_UnboundedTableWaitNeverAnswers :
    ∃ s : State, s.cfg.WF ∧ s.cfg.tableWaitBound = none ∧ s.seq = .waiting .atuFlushAll .pre 1 ∧ s.resetIn = none ∧
      (ans 0x9000).Shows s.cfg true ∧
      s.env = .script ((List.replicate 3 (ans 0x9000).ctrl).flatten ++ []) (List.replicate 3 (ans 0x9000).data ++ []) :=
  ⟨{ start (.script (rep 6 V) (rep 3 0x9000)) with seq := .waiting .atuFlushAll .pre 1 }, cfg0_wf, rfl, rfl, rfl,
    shows_busy, rfl⟩

/-- A bound of one, reached at the first poll of either wait, and of three, reached after two busy polls. -/
theorem witness_TableWaitBoundAnswersTimeout :
    (cfgBound 1).WF ∧ (cfgBound 3).WF ∧ (ans 0x9000).Shows (cfgBound 3) true ∧
    nextState (exec .atuFlushAll { start (.script [V, V] [0x9000]) with cfg := cfgBound 1 }) =
      some (answered { start (.script [V, V] [0x9000]) with cfg := cfgBound 1 } .timeout 0 [] []
        ((ans 0x9000).trace cfg0 0x1B 0x0B)) ∧
    nextState (step { start (.script [V, V] [0x9000]) with cfg := cfgBound 3, seq := .waiting .atuFlushAll .pre 2 }) =
      some (answered { start (.script [V, V] [0x9000]) with cfg := cfgBound 3, seq := .waiting .atuFlushAll .pre 2 }
        .timeout 0 [] [] ((ans 0x9000).trace cfg0 0x1B 0x0B)) ∧
    nextState (exec .pvtRead { start (.script (rep 5 V) [0x3000, 0x9000]) with cfg := cfgBound 1 }) =
      some (answered { start (.script (rep 5 V) [0x3000, 0x9000]) with cfg := cfgBound 1 } .timeout 0 [] []
        ((ans 0x3000).trace cfg0 0x1C 0x0B ++ commitTrace cfg0 0x1C [((0x0B, 0xC000), V)] ++
          (ans 0x9000).trace cfg0 0x1C 0x0B)) :=
  ⟨cfgBound_wf 0, cfgBound_wf 2, shows_busy, by decide +kernel, by decide +kernel, by decide +kernel⟩

/-- ATU_SVC_VIOL: a time-out in a poll of a wait, in its operation word, in its second wait, and after two results; E[11]
and E[3] keep what was read. -/
theorem witness_TableFailureKeepsWhatWasDone :
    WriteTimesOut cfg0 (rep 8 B) ((rep 8 B).map BusEvent.readCtrl) ∧
    nextState (step { start (.script (rep 8 B) []) with seq := .waiting .atuSvcViol .post 1 }) =
      some (answered { start (.script (rep 8 B) []) with seq := .waiting .atuSvcViol .post 1 } .timeout 0 [] []
        ((rep 8 B).map BusEvent.readCtrl)) ∧
    (tablePlan cfg0 .atuSvcViol).commit (start (.script [] [])) = [] ++ (0x0B, 0xF000) :: [] ∧
    nextState (exec .atuSvcViol (start (.script ([V, V] ++ rep 8 B) [0x3000]))) =
      some (answered (start (.script ([V, V] ++ rep 8 B) [0x3000])) .timeout 0 [] []
        ((ans 0x3000).trace cfg0 0x1B 0x0B ++ (rep 8 B).map BusEvent.readCtrl)) ∧
    nextState (exec .atuSvcViol (start (.script (rep 3 V ++ rep 8 B) [0x3000]))) =
      some (answered (start (.script (rep 3 V ++ rep 8 B) [0x3000])) .timeout 0 [] []
        ((ans 0x3000).trace cfg0 0x1B 0x0B ++ commitTrace cfg0 0x1B [((0x0B, 0xF000), V)] ++
          (rep 8 B).map BusEvent.readCtrl)) ∧
    (tablePlan cfg0 .atuSvcViol).results = [(0x0B, .storeKind), (0x01, .storeDatabase)] ++ (0x0C, .storeState) ::
      macResults cfg0 ∧
    nextState (exec .atuSvcViol (start (.script (rep 9 V ++ rep 8 B) [0x3000, 0x3000, 0x0040, 0xF003]))) =
      some (answered (writeE 3 3 (writeE 11 2 (start (.script (rep 9 V ++ rep 8 B) [0x3000, 0x3000, 0x0040, 0xF003]))))
        .timeout 0 [] []
        ((ans 0x3000).trace cfg0 0x1B 0x0B ++ commitTrace cfg0 0x1B [((0x0B, 0xF000), V)] ++
          (ans 0x3000).trace cfg0 0x1B 0x0B ++ (ans 0x0040).trace cfg0 0x1B 0x0B ++ (ans 0xF003).trace cfg0 0x1B 0x01 ++
          (rep 8 B).map BusEvent.readCtrl)) :=
  ⟨⟨all_busy 8, by decide, rfl⟩, by decide +kernel, by decide +kernel, by decide +kernel, by decide +kernel, by decide,
   by decide +kernel⟩

/-- A wait of each kind whose next poll shows the table ready. -/
theorem witness_ResumedWaitRunsTheCommand :
    (∃ s : State, s.resetIn = none ∧ s.seq = .waiting .atuFlushAll .pre 2 ∧ s.ctx.valid = true ∧
      (smiRead (tablePlan s.cfg .atuFlushAll).dev (tablePlan s.cfg .atuFlushAll).opReg s).1 = .ok 0x3000) ∧
    (∃ s : State, s.resetIn = none ∧ s.seq = .waiting .pvtRead .post 2 ∧
      (smiRead (tablePlan s.cfg .pvtRead).dev (tablePlan s.cfg .pvtRead).opReg s).1 = .ok 0x3000) ∧
    (0x3000 : Half).getLsbD 15 = false :=
  ⟨⟨{ start (.script (rep 4 V) [0x3000]) with seq := .waiting .atuFlushAll .pre 2 }, rfl, rfl, rfl, by decide +kernel⟩,
   ⟨{ start (.script (rep 4 V) [0x3000, 7]) with seq := .waiting .pvtRead .post 2 }, rfl, rfl, by decide +kernel⟩, by decide⟩

/-- The three boundary sizes. -/
theorem witness_PortJumboWritesTheModeCode_sizes : (1522 : Half).toNat ≤ 1522 ∧ (1522 < (1523 : Half).toNat ∧ (1523 : Half).toNat ≤ 2048) ∧
    2048 < (2049 : Half).toNat ∧ jumboMode 2048 = .b ∧ jumboMode 2049 = .c := by decide

theorem witness_PortFieldCommandsWriteTheField :
    (Instr.portFrameMode 15 3, PortOp.portFrameMode, port0.descFrameMode) ∈ fieldForms cfg0 15 3 ∧
    pcfgLegal cfg0 ctx0.deviceId .portFrameMode = true ∧ inRanges port0.descFrameMode.legal 3 = true ∧
    mapAddress cfg0 15 port0.descFrameMode.kind < 32 ∧
    nextState (exec (.portFrameMode 15 3) (start (.script [V, V, V] [0x0003]))) =
      some (answered (start (.script [V, V, V] [0x0003])) .ok 0 [] []
        ((ans 0x0003).trace cfg0 0x1F 4 ++ writeTrace cfg0 0x1F 4 0x0303 V)) :=
  ⟨by decide, by decide, by decide, by decide, by decide +kernel⟩

theorem witness_PortJumboWritesTheModeCode :
    pcfgLegal cfg0 ctx0.deviceId .portJumbo = true ∧ mapAddress cfg0 3 port0.descJumbo.kind < 32 ∧
    nextState (exec (.portJumbo 3 0xFFFF) (start (.script [V, V, V] [0x3000]))) =
      some (answered (start (.script [V, V, V] [0x3000])) .ok 2 [] []
        ((ans 0x3000).trace cfg0 0x13 8 ++ writeTrace cfg0 0x13 8 0x2000 V)) := by
  decide +kernel

theorem witness_PhyPowerWritesPageBitsRestore :
    [(⟨.phyControl, 11, 1, 1, 0⟩ : PowerBit), ⟨.phySpecControl, 2, 1, 1, 0⟩] = cfg0.phy.powerBits ∧
    pcfgLegal cfg0 ctx0.deviceId .phyPower = true ∧ (1 : Half).toNat ≤ 1 ∧ (31 : BitVec 8).toNat < 32 ∧
    nextState (exec (.phyPower 31 1) (start (.script (rep 8 V) [0x1940, 0x3064]))) =
      some (answered (start (.script (rep 8 V) [0x1940, 0x3064])) .ok 0 [] []
        (writeTrace cfg0 31 0x16 0 V ++
         powerTrace cfg0 31 1 [(⟨.phyControl, 11, 1, 1, 0⟩, ans 0x1940, V), (⟨.phySpecControl, 2, 1, 1, 0⟩, ans 0x3064, V)] ++
         writeTrace cfg0 31 0x16 0 V)) := by
  decide +kernel

/-- The page write timing out; the second row's read doing so, with the restore going through; the first row's write and the
restore doing so; and the restore alone, with no row before it failing. -/
theorem witness_PhyPowerRestoresThePageAfterFailure :
    WriteTimesOut cfg0 (rep 8 B) ((rep 8 B).map BusEvent.readCtrl) ∧
    FieldWriteTimesOut cfg0 3 0 ((ans 0x1140).ctrl ++ rep 8 B) [0x1140]
      ((ans 0x1140).trace cfg0 3 0 ++ (rep 8 B).map BusEvent.readCtrl) ∧
    nextState (exec (.phyPower 3 0) (start (.script (rep 8 B) []))) =
      some (answered (start (.script (rep 8 B) [])) .timeout 0 [] [] ((rep 8 B).map BusEvent.readCtrl)) ∧
    nextState (exec (.phyPower 3 0) (start (.script (rep 4 V ++ rep 8 B ++ [V]) [0x1140]))) =
      some (answered (start (.script (rep 4 V ++ rep 8 B ++ [V]) [0x1140])) .timeout 0 [] []
        (writeTrace cfg0 3 0x16 0 V ++ powerTrace cfg0 3 0 [(⟨.phyControl, 11, 1, 1, 0⟩, ans 0x1140, V)] ++
         (rep 8 B).map BusEvent.readCtrl ++ writeTrace cfg0 3 0x16 0 V)) ∧
    nextState (exec (.phyPower 3 0) (start (.script (rep 3 V ++ rep 16 B) [0x1140]))) =
      some (answered (start (.script (rep 3 V ++ rep 16 B) [0x1140])) .timeout 0 [] []
        (writeTrace cfg0 3 0x16 0 V ++ (ans 0x1140).trace cfg0 3 0 ++ (rep 16 B).map BusEvent.readCtrl)) ∧
    nextState (exec (.phyPower 3 0) (start (.script (rep 7 V ++ rep 8 B) [0x1140, 0x3060]))) =
      some (answered (start (.script (rep 7 V ++ rep 8 B) [0x1140, 0x3060])) .timeout 0 [] []
        (writeTrace cfg0 3 0x16 0 V ++ powerTrace cfg0 3 0 [(⟨.phyControl, 11, 1, 1, 0⟩, ans 0x1140, V),
          (⟨.phySpecControl, 2, 1, 1, 0⟩, ans 0x3060, V)] ++ (rep 8 B).map BusEvent.readCtrl)) :=
  ⟨⟨all_busy 8, by decide, rfl⟩,
   .inr ⟨ans 0x1140, rep 8 B, _, prompt_ans _, ⟨all_busy 8, by decide, rfl⟩, rfl, rfl, rfl⟩,
   by decide +kernel, by decide +kernel, by decide +kernel, by decide +kernel⟩

/-- CFG0 with PHY_POWER illegal on the model. -/
def cfgNoPower : Config := { cfg0 with port := { port0 with illegal := [(1, .phyPower)] } }

/-- Each check's case: no context, an illegal operation, an illegal argument, a wide address. -/
theorem witness_PortChecksInOrder :
    (Instr.phyPower 3 2, PortOp.phyPower, false, 3) ∈ portForms cfgNoPower 3 2 ∧
    nextState (exec (.phyPower 3 2) (bare (.script [] []))) = some { bare (.script [] []) with response := some 0x00010000 } ∧
    pcfgLegal cfgNoPower ctx0.deviceId .phyPower = false ∧
    nextState (exec (.phyPower 3 2) { start (.script [] []) with cfg := cfgNoPower }) =
      some { start (.script [] []) with cfg := cfgNoPower, response := some 0x00050000 } ∧
    nextState (exec (.phyPower 3 2) (start (.script [] []))) = some { start (.script [] []) with response := some 0x00040000 } ∧
    (Instr.phyPower 32 1, PortOp.phyPower, true, 32) ∈ portForms cfg0 32 1 ∧
    nextState (exec (.phyPower 32 1) (start (.script [] []))) = some { start (.script [] []) with response := some 0x00020000 } :=
  by decide +kernel

/-- A state that meets the invariant while a command waits, and a step from it. -/
theorem witness_InvariantKeptByEveryStep :
    ∃ s : State, s.cfg.WF ∧ Inv s ∧ s.seq = .waiting .atuFlushAll .pre 1 ∧
      (nextState (step s)).map State.response = some (some 0x00000000) := by
  refine ⟨{ start (.script (rep 4 V) [0x3000]) with
    seq := .waiting .atuFlushAll .pre 1, history := [.writeCtrl 0x057B0000] }, cfg0_wf, ?_, rfl, by decide +kernel⟩
  refine ⟨fun _ => by decide, fun rw h => absurd h (by simp [start, State.reset]), fun c ph k h => ?_,
    fun w h => absurd h (by simp), fun w h => ?_, trivial⟩
  · obtain ⟨rfl, rfl, rfl⟩ : TableCmd.atuFlushAll = c ∧ WaitPhase.pre = ph ∧ 1 = k := by
      simpa [start] using h
    exact ⟨by decide, rfl, by simp, fun _ => rfl, rfl⟩
  · obtain rfl : w = 0x057B0000 := by simpa using h
    exact ⟨by decide, by decide⟩

theorem witness_ContextWrittenByCtxInitOnly :
    (nextState (exec (.smiWr 0x12 4 1) (start (.script [V] [])))).isSome = true ∧ Instr.smiWr 0x12 4 1 ≠ .ctxInit ∧
    readE 0 (start (.script [] []) [(0, 1)]) ∈ (start (.script [] []) [(0, 1)]).cfg.supportedIds ∧
    (nextState (exec .ctxInit { start (.script [] []) [(0, 1)] with ctx := resetContext 0 })).isSome = true :=
  ⟨by decide +kernel, by decide, by decide, by decide +kernel⟩

theorem witness_OperandRegistersFrame :
    (nextState (exec .atuGetNext (start (.script (rep 17 V) [0, 0, 0, 0, 0, 0])))).map State.response = some (some 0) ∧
    (7 : BitVec 4) ∉ writtenRegs cfg0 .atuGetNext ∧ (3 : BitVec 4) ∉ writtenRegs cfg0 (latchedCommand .atuGetNext) :=
  ⟨by decide +kernel, by decide, by decide⟩

theorem witness_Env0CellsFrame :
    (∃ e, (bare (cell 0x12 4 7)).env = .env0 e) ∧
    (nextState (exec (.smiWr 0x12 5 1) (bare (cell 0x12 4 7)))).isSome = true ∧
    env0WrittenCell (cwWrite cfg0 0x12 5 1) = some (cellNumber 0x12 5) ∧ env0WrittenCell (cwRead cfg0 0x12 5) = none :=
  ⟨⟨_, rfl⟩, by decide +kernel, by decide, by decide⟩

/-- A command answered at once, and one answered after waiting. -/
theorem witness_AnswerStatuses :
    (∃ s : State, s.cfg.bus.WF ∧ s.response = none ∧
      (nextState (exec (.smiRd 32 0) s)).map State.response = some (some 0x00020000)) ∧
    (∃ s : State, s.cfg.bus.WF ∧ s.response = none ∧ (resume .pvtRead .post 1 s).response = some 0x0000007F) :=
  ⟨⟨bare (.script [] []), bus0_wf, rfl, by decide +kernel⟩,
   ⟨bare (.script (rep 4 V) [0x4000, 0x7F]), bus0_wf, rfl, by decide +kernel⟩⟩

theorem witness_AccessesBounded : accessBound cfg0 (.smiWr 0x12 4 0) = some 9 ∧
    (nextState (exec (.smiWr 0x12 4 0) (bare (.script (rep 7 B ++ [0]) [])))).map (fun t => t.history.length) = some 9 := by
  decide +kernel

/-- Two scripts that differ only in ignored bits. -/
theorem witness_IgnoredBitsNeverMatter :
    ∃ s s' : State, SameSeen s s' ∧ s ≠ s' ∧
      (nextState (step s)).map State.response = some (some 0x00000042) := by
  refine ⟨hosting [0x1012040000000000] (bare (.script [0, V] [0x42])),
    hosting [0x1012040000000000] (bare (.script [0xE7FFFFFF, 0x0800BEEF] [0xFFFF0042])),
    ⟨rfl, rfl, rfl, rfl, rfl, rfl, rfl, rfl, rfl, List.Forall₂.nil, _, _, _, _, rfl, rfl, ?_, ?_⟩, ?_, by decide +kernel⟩
  · exact .cons (by decide) (.cons (by decide) .nil)
  · exact .cons (by decide) .nil
  · intro h
    exact absurd (congrArg State.env h) (by decide)

end Sys2Proof.Machine.Tests
end

/-! PROOFS. A step of the machine, the reset input, and the command an idle block runs (00_scope.md R8;
70_reset_and_hazards.md R296). -/

namespace Sys2Proof.Machine

/-! ## A step under the reset input -/

/-- A command presented or in progress is something to do. -/
theorem isQuiet_of_busy {s : State} (h : s.seq ≠ .idle ∨ s.commands ≠ []) : isQuiet s = false := by
  rcases h with h | h <;> simp [isQuiet, h]

/-- A reset that is still to come, on a block with something to do, cuts what the block does where it lands
(70_reset_and_hazards.md R296). -/
theorem underReset_of_due {go : State → Host.Outcome State Fault Refusal} {s t : State} {n : Nat}
    (hr : s.resetIn = some (n + 1)) (hq : isQuiet s = false) (hg : go s = .next t) :
    underReset go s = .next (resetWithin (n + 1) s t) := by
  simp [underReset, hr, hq, hg]

/-- An idle block runs the command its word decodes to. -/
theorem advance_of_word {s : State} {w : Command} {rest : List Command} {i : Instr} (hseq : s.seq = .idle)
    (hc : s.commands = w :: rest) (hd : decode w = .ok i) : advance s = exec i (acceptCommand rest s) := by
  simp [advance, hseq, hc, runWord, hd]

/-- Settles O6: the step is `advance`, uncut or cut, and `advance` runs the word. -/
theorem stepRunsDecodedCommand : Obligations.StepRunsDecodedCommand := by
  intro s w rest i hseq hc hd
  have hrun : advance s = exec i { s with commands := rest, response := none } := advance_of_word hseq hc hd
  refine ⟨fun hr => ?_, fun n t hr ht => ?_⟩
  · rw [step, underReset_of_none hr, hrun]
  · exact underReset_of_due hr (isQuiet_of_busy (.inr (by simp [hc]))) (hrun.trans ht)

end Sys2Proof.Machine

/-! PROOFS. A waiting table command keeps the command port closed (00_scope.md R8; 44_atu_engine.md R186). -/

namespace Sys2Proof.Machine

/-! ## What a step of a table command ends in -/

/-- The table command `c`, gone on with from `s`, has answered or waits on; the command port is as it was. -/
def AnsweredOrWaiting (c : TableCmd) (s t : State) : Prop :=
  t.commands = s.commands ∧
    ((t.seq = .idle ∧ ∃ rw, t.response = some rw) ∨
     (∃ ph k, t.seq = .waiting c ph k ∧ t.response = s.response))

/-- Bus accesses and stored results before the end change nothing of it. -/
theorem AnsweredOrWaiting.after {c : TableCmd} {regs : List (BitVec 4)} {s m t : State} (h : Stores regs s m)
    (k : AnsweredOrWaiting c m t) : AnsweredOrWaiting c s t := by
  unfold AnsweredOrWaiting at k ⊢
  rwa [h.commands, h.response] at k

theorem answeredOrWaiting_respond (c : TableCmd) (st : Status) (v : Half) (s : State) :
    AnsweredOrWaiting c s (respond st v s) := ⟨rfl, .inl ⟨rfl, _, rfl⟩⟩

theorem answeredOrWaiting_waiting (c : TableCmd) (ph : WaitPhase) (k : Nat) (s : State) :
    AnsweredOrWaiting c s { s with seq := .waiting c ph k } := ⟨rfl, .inr ⟨ph, k, rfl, rfl⟩⟩

/-- A last piece that stores operand registers at most ends in an answer (60_exceptions.md R272). -/
theorem answeredOrWaiting_finish (c : TableCmd) {regs : List (BitVec 4)} {m : Bus Half} {s : State}
    (h : Stores regs s (m s).2) : AnsweredOrWaiting c s (finish m s) := by
  rcases finish_cases m s with ⟨v, t, hm, e⟩ | ⟨st, t, hm, e⟩ <;> rw [hm] at h <;> rw [e]
  · exact .after h (answeredOrWaiting_respond c .ok v t)
  · exact .after h (answeredOrWaiting_respond c st 0 t)

/-- A poll answers, waits on, or goes on with `f` (44_atu_engine.md R186). -/
theorem answeredOrWaiting_tableWait (c : TableCmd) (ph : WaitPhase) (k : Nat) (p : TablePlan) {f : State → State}
    (hf : ∀ t, AnsweredOrWaiting c t (f t)) (s : State) : AnsweredOrWaiting c s (tableWait c ph k p f s) := by
  have hread := (busPiece_smiRead p.dev p.opReg s).stores []
  rcases tableWait_cases c ph k p f s with ⟨st, t, h, e⟩ | ⟨v, t, h, -, e⟩ | ⟨v, t, h, -, -, e⟩ | ⟨v, t, h, -, -, e⟩ <;>
    rw [h] at hread <;> rw [e]
  · exact .after hread (answeredOrWaiting_respond c st 0 t)
  · exact .after hread (hf t)
  · exact .after hread (answeredOrWaiting_respond c .timeout 0 t)
  · exact .after hread (answeredOrWaiting_waiting c ph (k + 1) t)

/-- The result reads and the answer store the result registers at most (44_atu_engine.md R202). -/
theorem stores_tableResult (p : TablePlan) (s : State) :
    Stores (p.results.flatMap fun r => usedRegs s.cfg r.2) s (tableResult p s).2 := by
  have h := stores_readAll p.dev p.results s
  unfold tableResult
  rcases andThen_cases (readAll p.dev p.results) (fun _ => fun s => give (answerValue p.answer s) s) s with
    ⟨st, t, hm, e⟩ | ⟨_, t, hm, e⟩ <;> rw [hm] at h <;> rw [e] <;> exact h

theorem answeredOrWaiting_runPostWait (c : TableCmd) (k : Nat) (p : TablePlan) (s : State) :
    AnsweredOrWaiting c s (runPostWait c k p s) :=
  answeredOrWaiting_tableWait c .post k p (fun t => answeredOrWaiting_finish c (stores_tableResult p t)) s

theorem answeredOrWaiting_runCommit (c : TableCmd) (p : TablePlan) (s : State) :
    AnsweredOrWaiting c s (runCommit c p s) := by
  have hwrite := (busPiece_writeAll p.dev (p.commit s) s).stores []
  rcases runCommit_cases c p s with ⟨st, t, h, e⟩ | ⟨t, h, -, -, e⟩ | ⟨t, h, -, e⟩ <;> rw [h] at hwrite <;> rw [e]
  · exact .after hwrite (answeredOrWaiting_respond c st 0 t)
  · exact .after hwrite (answeredOrWaiting_respond c .ok 0 t)
  · exact .after hwrite (answeredOrWaiting_runPostWait c 0 p t)

/-- A waiting command's next step, in either wait. -/
theorem answeredOrWaiting_resume (c : TableCmd) (ph : WaitPhase) (k : Nat) (s : State) :
    AnsweredOrWaiting c s (resume c ph k s) := by
  cases ph with
  | pre => exact answeredOrWaiting_tableWait c .pre k _ (answeredOrWaiting_runCommit c _) s
  | post => exact answeredOrWaiting_runPostWait c k _ s

/-- A waiting block goes on with the command it has latched (00_scope.md R8). -/
theorem advance_of_waiting {s : State} {c : TableCmd} {ph : WaitPhase} {k : Nat} (h : s.seq = .waiting c ph k) :
    advance s = .next (resume c ph k s) := by
  simp [advance, h]

/-- Settles O7: the step is `resume`, and each of its ends answers or waits on. -/
theorem waitingBlockTakesNoCommand : Obligations.WaitingBlockTakesNoCommand := by
  intro s c ph k hseq hr
  obtain ⟨hcommands, hend⟩ := answeredOrWaiting_resume c ph k s
  exact ⟨resume c ph k s, by rw [step, underReset_of_none hr, advance_of_waiting hseq], hcommands, hend⟩

end Sys2Proof.Machine

/-! PROOFS. The three kinds of step of the sequencer (00_scope.md R9). -/

namespace Sys2Proof.Machine

/-! ## The commands that make no access -/

/-- LDE, RDE, CTX_INIT and CTX_RD: the commands that run whole in the step of their response (log 1). -/
def accessFree : Instr → Bool
  | .lde .. | .rde _ | .ctxInit | .ctxRd _ => true
  | _ => false

/-- A table command is latched with its first poll, or with the answer of its context check. -/
theorem tableWork_todo_ne_run (c : TableCmd) (s : State) (i : Instr) : (tableWork c s).todo ≠ [.run i] := by
  unfold tableWork
  split <;> simp [turnedAway, begun, pollTasks]

/-- A command whose checks fail has only their answer to run. -/
theorem checkedWork_todo_ne_run (st : Status) {todo : List Task} {i : Instr} (h : todo ≠ [.run i]) :
    (checkedWork st todo).todo ≠ [.run i] := by
  cases st <;> simp [checkedWork, turnedAway, begun, h]

/-- Only a command that makes no access is latched whole (10_state.md R31). -/
theorem accessFree_of_workOf {i : Instr} {s : State} (h : workOf i s = begun [.run i]) : accessFree i = true := by
  have htodo : (workOf i s).todo = [.run i] := by rw [h]; rfl
  cases i with
  | lde | rde | ctxInit | ctxRd => rfl
  | smiRd | smiWr | smiFldWr | regRd | regWr | regFldWr => simp [workOf, begun] at htodo
  | atuFlushAll | atuFlushUnlocked | atuLoadPurge | atuGetNext | atuFlushAllDb | atuFlushUnlockedDb | atuSvcViol
  | pvtWrite | pvtRead => exact absurd htodo (tableWork_todo_ne_run _ s _)
  | portState | portFrameMode | portVlanMembers | portHeaderMode | pcsForceSpeed | pcsForceDuplex | pcsForceFc
  | pcsForceLink | portJumbo | phyPower => exact absurd htodo (checkedWork_todo_ne_run _ (by simp [describedTasks]))

/-- The block has answered with no access: what the delivery of a response does (00_scope.md R9). -/
structure Delivered (s t : State) : Prop where
  history : t.history = s.history
  env : t.env = s.env
  commands : t.commands = s.commands
  response : ∃ rw, t.response = some rw
  seq : t.seq = .idle

theorem delivered_respond (st : Status) (v : Half) (s : State) : Delivered s (respond st v s) :=
  ⟨rfl, rfl, rfl, ⟨_, rfl⟩, rfl⟩

/-- A command that makes no access answers at once (40_operand_and_context.md R110 to R113). -/
theorem delivered_exec {i : Instr} (hi : accessFree i = true) {s t : State} (h : exec i s = .next t) :
    Delivered s t := by
  cases i with
  | lde n imm => cases h; exact ⟨rfl, rfl, rfl, ⟨_, rfl⟩, rfl⟩
  | rde n => cases h; exact delivered_respond _ _ s
  | ctxInit =>
    cases h
    split <;> exact ⟨rfl, rfl, rfl, ⟨_, rfl⟩, rfl⟩
  | ctxRd n =>
    simp only [exec, execCtxRd] at h
    split at h
    · cases h; exact delivered_respond _ _ s
    · split at h
      · cases h; exact delivered_respond _ _ s
      · split at h <;> cases h <;> exact delivered_respond _ _ s
  | _ => cases hi

theorem delivered_deliver {w : Work} {s t : State} (hw : ∀ i, .run i ∈ w.todo → accessFree i = true)
    (h : deliver w s = .next t) : Delivered s t := by
  unfold deliver at h
  split at h
  · next i rest htodo => exact delivered_exec (hw i (by simp [htodo])) h
  all_goals cases h; exact delivered_respond _ _ s

/-! ## The next operation -/

/-- A failure leaves nothing to run that was not there, but for the answer. -/
theorem mem_afterFailure {t : Task} {todo : List Task} (h : t ∈ afterFailure todo) : t = .answer 0 ∨ t ∈ todo := by
  unfold afterFailure at h
  split at h
  · exact .inl (by simpa using h)
  · exact .inr ((List.dropWhile_sublist _).subset h)

theorem run_mem_openNext {cfg : Config} {w : Work} {i : Instr} (h : .run i ∈ (openNext cfg w).todo) :
    .run i ∈ w.todo := by
  rcases openNext_cases cfg w with e | ⟨t, rest, op, -, ht, -, -, e⟩ | ⟨t, rest, op, -, ht, -, -, e⟩ <;> rw [e] at h
  · exact h
  · exact ht ▸ List.mem_cons_of_mem _ h
  · rcases mem_afterFailure h with h | h
    · cases h
    · exact ht ▸ List.mem_cons_of_mem _ h

/-- A countdown has reads left (10_state.md R25). -/
def Counting (w : Work) : Prop := ∀ tr, w.trans = some tr → tr.phase ≠ .busy 0 ∧ tr.phase ≠ .rvalid 0

/-- A Bus Transaction opens with at least one read (00_scope.md R7). -/
theorem counting_openNext {cfg : Config} (hmax : 1 ≤ cfg.bus.busyPollMax) {w : Work} (hw : Counting w) :
    Counting (openNext cfg w) := by
  rcases openNext_cases cfg w with e | ⟨t, rest, op, -, -, -, -, e⟩ | ⟨t, rest, op, -, -, -, -, e⟩ <;> rw [e]
  · exact hw
  · rintro tr ⟨⟩
    simp
    omega
  · rintro tr ⟨⟩

/-! ## One access -/

/-- The sequencer is not in IDLE, and nothing else the host sees at its ports has changed. -/
structure StillBusy (s t : State) : Prop where
  commands : t.commands = s.commands
  response : t.response = s.response
  seq : t.seq ≠ .idle

theorem StillBusy.after {s m t : State} (h : BusOnly s m) (k : StillBusy m t) : StillBusy s t :=
  ⟨k.commands.trans h.commands, k.response.trans h.response, k.seq⟩

theorem stillBusy_runningAt (w : Work) (s : State) : StillBusy s (runningAt w s) := ⟨rfl, rfl, nofun⟩

theorem proceed_seq_ne_idle (w : Work) (s : State) : (proceed w s).seq ≠ .idle := by
  unfold proceed
  repeat' split
  all_goals exact nofun

theorem stillBusy_proceed (w : Work) (s : State) : StillBusy s (proceed w s) :=
  ⟨(inside_proceed w s).commands, (inside_proceed w s).response, proceed_seq_ne_idle w s⟩

/-- No access answers a command or takes one (00_scope.md R9). -/
theorem stillBusy_makeAccess (tr : Transaction) (w : Work) (s : State) : StillBusy s (makeAccess tr w s) := by
  unfold makeAccess
  split
  case h_1 | h_4 => exact stillBusy_runningAt _ s
  case h_2 | h_5 => repeat' split
                    all_goals exact .after (busOnly_memReadCtrl s) (stillBusy_runningAt _ _)
  case h_3 =>
    split
    · exact .after (busOnly_memWriteCtrl _ s) (stillBusy_runningAt _ _)
    · exact .after (busOnly_memWriteCtrl _ s) (stillBusy_proceed _ _)
  case h_6 => exact .after (busOnly_memReadData s) (stillBusy_proceed _ _)

/-- A command in progress makes one access, or delivers its response (00_scope.md R9). -/
theorem continueWork_cases {w : Work} {s t : State} (hmax : 1 ≤ s.cfg.bus.busyPollMax) (hcount : Counting w)
    (hrun : ∀ i, .run i ∈ w.todo → accessFree i = true) (h : continueWork w s = .next t) :
    ((∃ ev, t.history = s.history ++ [ev]) ∧ StillBusy s t) ∨ Delivered s t := by
  have hcount' := counting_openNext hmax (counting_openNext hmax hcount)
  unfold continueWork at h
  split at h
  · next tr htr =>
    cases h
    obtain ⟨hbusy, hvalid⟩ := hcount' tr htr
    rcases makeAccess_history tr (openNext s.cfg (openNext s.cfg w)) s with hev | ⟨hstuck, -⟩
    · exact .inl ⟨hev, stillBusy_makeAccess _ _ s⟩
    · exact absurd hstuck (not_or_intro hbusy hvalid)
  · exact .inr (delivered_deliver (fun i hi => hrun i (run_mem_openNext (run_mem_openNext hi))) h)

/-! ## The sequencer's step, by the state it starts from -/

theorem advanceOne_of_running {s : State} {w : Work} (h : s.seq = .running w) : advanceOne s = continueWork w s := by
  simp [advanceOne, h]

theorem advanceOne_of_waiting {s : State} {c : TableCmd} {ph : WaitPhase} {k : Nat} (h : s.seq = .waiting c ph k) :
    advanceOne s = continueWork (begun (pollTasks s.cfg c ph k)) s := by
  simp [advanceOne, h]

theorem advanceOne_of_quiet {s : State} (h : s.seq = .idle) (hc : s.commands = []) : advanceOne s = .next s := by
  simp [advanceOne, h, hc]

theorem advanceOne_of_word {s : State} {w : Command} {rest : List Command} (h : s.seq = .idle)
    (hc : s.commands = w :: rest) : advanceOne s = .next (acceptWord w (acceptCommand rest s)) := by
  simp [advanceOne, h, hc]

/-- An acceptance latches what the word has to run, and does nothing else (10_state.md R31). -/
theorem acceptWord_eq (w : Command) (s : State) : ∃ work, acceptWord w s = runningAt work s := by
  unfold acceptWord
  split <;> exact ⟨_, rfl⟩

/-- A command in progress is a work that the next step goes on with, and it has not answered yet (10_state.md R25,
R31). -/
theorem exists_work_of_busy {s t : State} (hinv : Inv s) (hseq : s.seq ≠ .idle) (ht : advanceOne s = .next t) :
    ∃ w, continueWork w s = .next t ∧ Counting w ∧ (∀ i, .run i ∈ w.todo → accessFree i = true) ∧
      s.response = none := by
  cases h : s.seq with
  | idle => exact absurd h hseq
  | waiting c ph k =>
    obtain ⟨-, -, -, -, hnone⟩ := hinv.wait_sound c ph k h
    exact ⟨begun (pollTasks s.cfg c ph k), advanceOne_of_waiting h ▸ ht, fun tr => nofun, by simp [begun, pollTasks],
      hnone⟩
  | running w =>
    have hsound := hinv.run_sound w h
    exact ⟨w, advanceOne_of_running h ▸ ht, hsound.counting, fun i hi => accessFree_of_workOf (hsound.whole i hi),
      hsound.silent⟩

/-- Settles O11, by what the sequencer is doing: a command in progress makes an access or answers, and an idle block
accepts a word if there is one. -/
theorem accessStepIsOneOfThree : Obligations.AccessStepIsOneOfThree := by
  intro s t hcfg hinv hr ht
  rw [accessStep, underReset_of_none hr] at ht
  by_cases hseq : s.seq = .idle
  · cases hc : s.commands with
    | nil =>
      rw [advanceOne_of_quiet hseq hc] at ht
      cases ht
      exact .inr (.inr (.inr ⟨hseq, rfl, rfl⟩))
    | cons w rest =>
      obtain ⟨work, hacc⟩ := acceptWord_eq w (acceptCommand rest s)
      rw [advanceOne_of_word hseq hc, hacc] at ht
      cases ht
      exact .inr (.inl ⟨hseq, ⟨w, rfl⟩, rfl, rfl, nofun, rfl, rfl, rfl⟩)
  · obtain ⟨w, hw, hcount, hrun, hnone⟩ := exists_work_of_busy hinv hseq ht
    rcases continueWork_cases hcfg.bus.busyPoll_pos hcount hrun hw with ⟨hev, h⟩ | h
    · exact .inl ⟨hseq, hev, h.commands, h.response.trans hnone, h.seq⟩
    · exact .inr (.inr (.inl ⟨hseq, h.history, h.commands, h.response, h.seq, h.env⟩))

end Sys2Proof.Machine

/-! PROOFS. Chains of steps of the sequencer, and where the reset input cuts them (00_scope.md R9;
70_reset_and_hazards.md R296; log 8). -/

namespace Sys2Proof.Machine

/-! ## The bus side of a state -/

/-- Two states agree in all that a reset keeps, but for the presented words (10_state.md R34; log 8). -/
structure SameBus (s t : State) : Prop where
  cfg : t.cfg = s.cfg
  env : t.env = s.env
  draws : t.draws = s.draws
  history : t.history = s.history
  resets : t.resets = s.resets

theorem SameBus.refl (s : State) : SameBus s s := ⟨rfl, rfl, rfl, rfl, rfl⟩

theorem SameBus.symm {s t : State} (h : SameBus s t) : SameBus t s :=
  ⟨h.cfg.symm, h.env.symm, h.draws.symm, h.history.symm, h.resets.symm⟩

theorem SameBus.trans {s t u : State} (h : SameBus s t) (k : SameBus t u) : SameBus s u :=
  ⟨k.cfg.trans h.cfg, k.env.trans h.env, k.draws.trans h.draws, k.history.trans h.history, k.resets.trans h.resets⟩

theorem Inside.sameBus {s t : State} (h : Inside s t) : SameBus s t := ⟨h.cfg, h.env, h.draws, h.history, h.resets⟩

theorem sameBus_memReadCtrl {s t : State} (h : SameBus s t) : SameBus (memReadCtrl s).2 (memReadCtrl t).2 := by
  obtain ⟨hcfg, henv, hdraws, hhistory, hresets⟩ := h
  simp only [memReadCtrl, henv, hdraws, hcfg]
  split <;> constructor <;> simp [record, hcfg, henv, hdraws, hhistory, hresets]

theorem sameBus_memReadData {s t : State} (h : SameBus s t) : SameBus (memReadData s).2 (memReadData t).2 := by
  obtain ⟨hcfg, henv, hdraws, hhistory, hresets⟩ := h
  simp only [memReadData, henv, hdraws]
  split <;> constructor <;> simp [record, hcfg, henv, hdraws, hhistory, hresets]

theorem sameBus_memWriteCtrl {s t : State} (w : Word) (h : SameBus s t) :
    SameBus (memWriteCtrl w s) (memWriteCtrl w t) := by
  constructor <;> simp [h.cfg, h.env, h.draws, h.history, h.resets]

/-- An access made again from states that agree on the bus side leaves states that do. -/
theorem sameBus_replayAccess {s t : State} (h : SameBus s t) (ev : BusEvent) :
    SameBus (replayAccess s ev) (replayAccess t ev) := by
  cases ev with
  | readCtrl _ => exact sameBus_memReadCtrl h
  | writeCtrl w => exact sameBus_memWriteCtrl w h
  | readData _ => exact sameBus_memReadData h

theorem sameBus_foldl_replayAccess {s t : State} (h : SameBus s t) (evs : List BusEvent) :
    SameBus (evs.foldl replayAccess s) (evs.foldl replayAccess t) := by
  induction evs generalizing s t with
  | nil => exact h
  | cons ev evs ih => exact ih (sameBus_replayAccess h ev)

/-- What a reset leaves depends on the bus side and the presented words only. -/
theorem resetBlock_congr {s t : State} (h : SameBus s t) (cs : List Command) :
    { resetBlock t with commands := cs } = { resetBlock s with commands := cs } := by
  simp [resetBlock, h.cfg, h.env, h.draws, h.history, h.resets]

/-! ## Steps that make one access or none -/

/-- From `s` to `t` the bus side has made one access, or none. -/
def OneAccess (s t : State) : Prop :=
  SameBus s t ∨ ∃ ev, t.history = s.history ++ [ev] ∧ SameBus (replayAccess s ev) t

theorem OneAccess.of_sameBus {r s t : State} (h : SameBus r s) (k : OneAccess s t) : OneAccess r t := by
  rcases k with k | ⟨ev, hev, k⟩
  · exact .inl (h.trans k)
  · exact .inr ⟨ev, h.history ▸ hev, (sameBus_replayAccess h ev).trans k⟩

theorem OneAccess.inside {s m t : State} (h : OneAccess s m) (k : Inside m t) : OneAccess s t := by
  rcases h with h | ⟨ev, hev, h⟩
  · exact .inl (h.trans k.sameBus)
  · exact .inr ⟨ev, k.history.trans hev, h.trans k.sameBus⟩

theorem oneAccess_memReadCtrl (s : State) : OneAccess s (memReadCtrl s).2 :=
  .inr ⟨_, memReadCtrl_history s, .refl _⟩

theorem oneAccess_memReadData (s : State) : OneAccess s (memReadData s).2 :=
  .inr ⟨_, memReadData_history s, .refl _⟩

theorem oneAccess_memWriteCtrl (w : Word) (s : State) : OneAccess s (memWriteCtrl w s) := .inr ⟨_, rfl, .refl _⟩

/-- A step of a Bus Transaction makes one access, or none when its countdown had no read left (00_scope.md R9). -/
theorem oneAccess_makeAccess (tr : Transaction) (w : Work) (s : State) : OneAccess s (makeAccess tr w s) := by
  unfold makeAccess
  split
  case h_1 | h_4 => exact .inl (inside_runningAt _ s).sameBus
  case h_2 | h_5 => repeat' split
                    all_goals exact (oneAccess_memReadCtrl s).inside (inside_runningAt _ _)
  case h_3 =>
    split
    · exact (oneAccess_memWriteCtrl _ s).inside (inside_runningAt _ _)
    · exact (oneAccess_memWriteCtrl _ s).inside (inside_proceed _ _)
  case h_6 => exact (oneAccess_memReadData s).inside (inside_proceed _ _)

/-! ## The reset input over a stretch of steps -/

/-- `s` with the reset input at `r`. -/
def withReset (r : Option Nat) (s : State) : State := { s with resetIn := r }

@[simp] theorem withReset_resetIn (r : Option Nat) (s : State) : (withReset r s).resetIn = r := rfl
@[simp] theorem withReset_seq (r : Option Nat) (s : State) : (withReset r s).seq = s.seq := rfl

theorem sameBus_withReset (r : Option Nat) (s : State) : SameBus s (withReset r s) := ⟨rfl, rfl, rfl, rfl, rfl⟩

theorem withReset_self {r : Option Nat} {s : State} (h : s.resetIn = r) : withReset r s = s := by
  subst h; rfl

/-- What leads from `s` to `t`, cut by the reset input `r`. -/
def cut (r : Option Nat) (s t : State) : State :=
  match r with
  | none => withReset none t
  | some n => resetWithin n s t

theorem abandon_congr {s s' : State} (h : SameBus s s') (n : Nat) (t : State) : abandon n s' t = abandon n s t := by
  unfold abandon
  rw [h.history]
  exact resetBlock_congr (sameBus_foldl_replayAccess h _) _

/-- A cut depends on the bus side of where the stretch starts only. -/
theorem cut_congr {s s' : State} (h : SameBus s s') (r : Option Nat) (t : State) : cut r s' t = cut r s t := by
  cases r with
  | none => rfl
  | some n => simp only [cut, resetWithin, h.history, abandon_congr h]

theorem cut_withReset (r q : Option Nat) (s t : State) : cut r s (withReset q t) = cut r s t := by
  cases r <;> rfl

/-- A reset still to come after no access is as it was. -/
theorem cut_self {r : Option Nat} (hr : r ≠ some 0) (s : State) : cut r s s = withReset r s := by
  cases r with
  | none => rfl
  | some n =>
    have hn : 0 < n := Nat.pos_of_ne_zero fun h => hr (h ▸ rfl)
    simp [cut, resetWithin, hn, withReset]

section OneEvent
variable {s m u : State} {ev : BusEvent} {more : List BusEvent}

/-- A reset that lands after an access and `n` more lands after `n` once that access is made. -/
theorem abandon_step (hev : m.history = s.history ++ [ev]) (hm : SameBus (replayAccess s ev) m)
    (hmore : m.history ++ more = u.history) (n : Nat) : abandon (n + 1) s u = abandon n m u := by
  have hdrop : u.history.drop s.history.length = ev :: more := by simp [← hmore, hev]
  have hdrop' : u.history.drop m.history.length = more := by simp [← hmore]
  simp only [abandon, hdrop, hdrop', List.take_succ_cons, List.foldl_cons]
  exact (resetBlock_congr (sameBus_foldl_replayAccess hm _) _).symm

/-- An access that does not bring the reset takes one from its count. -/
theorem resetWithin_step (hev : m.history = s.history ++ [ev]) (hm : SameBus (replayAccess s ev) m)
    (hmore : m.history ++ more = u.history) (n : Nat) : resetWithin (n + 2) s u = resetWithin (n + 1) m u := by
  have hlen : u.history.length - s.history.length = more.length + 1 := by simp [← hmore, hev]
  have hlen' : u.history.length - m.history.length = more.length := by simp [← hmore]
  have hleft : n + 2 - (more.length + 1) = n + 1 - more.length := by omega
  simp only [resetWithin, hlen, hlen', hleft, abandon_step hev hm hmore, Nat.succ_lt_succ_iff]

/-- An access that brings the reset ends the stretch, however it would have gone on. -/
theorem resetWithin_one (hev : m.history = s.history ++ [ev]) (hm : SameBus (replayAccess s ev) m)
    (hmore : m.history ++ more = u.history) (hc : u.commands = m.commands) : resetWithin 1 s u = resetWithin 1 s m := by
  have hlen : u.history.length - s.history.length = more.length + 1 := by simp [← hmore, hev]
  have hlen' : m.history.length - s.history.length = 1 := by simp [hev]
  rw [resetWithin, resetWithin, hlen, hlen', if_neg (by omega), if_neg (by omega), abandon_step hev hm hmore,
    abandon_step hev hm (List.append_nil _), abandon, abandon, List.take_zero, List.take_zero, hc]

end OneEvent

/-- One step of a stretch under the reset input: the reset lands in it and so ends the stretch, or the rest of the
stretch is cut by what is left of the count (70_reset_and_hazards.md R296). -/
theorem cut_step {s m u : State} {r : Option Nat} (hr : r ≠ some 0) (hm : OneAccess s m) (hu : m.history <+: u.history)
    (hc : u.commands = m.commands) :
    cut r s m = cut r s u ∨ ∃ r', r' ≠ some 0 ∧ cut r s m = withReset r' m ∧ cut r s u = cut r' m u := by
  obtain ⟨more, hmore⟩ := hu
  rcases hm with hm | ⟨ev, hev, hm⟩
  · exact .inr ⟨r, hr, by rw [← cut_congr hm, cut_self hr], (cut_congr hm _ u).symm⟩
  · match r with
    | none => exact .inr ⟨none, hr, rfl, rfl⟩
    | some 0 => exact absurd rfl hr
    | some 1 => exact .inl (resetWithin_one hev hm hmore hc).symm
    | some (n + 2) =>
      refine .inr ⟨some (n + 1), by simp, ?_, resetWithin_step hev hm hmore n⟩
      exact (resetWithin_step hev hm (List.append_nil _) n).trans (cut_self (r := some (n + 1)) (by simp) m)

/-- A reset due now, or on a quiet block, takes the place of whatever the block would do (70_reset_and_hazards.md
R295). -/
theorem underReset_of_now {go : State → Host.Outcome State Fault Refusal} {s : State} {n : Nat}
    (hr : s.resetIn = some n) (hnow : n = 0 ∨ isQuiet s = true) : underReset go s = .next (resetBlock s) := by
  simp [underReset, hr, hnow]

/-- A block with something to do does it, cut where the reset input lands. -/
theorem underReset_eq_cut {go : State → Host.Outcome State Fault Refusal} {s t : State} (hr : s.resetIn ≠ some 0)
    (hq : isQuiet s = false) (hg : go s = .next t) (ht : t.resetIn = s.resetIn) :
    underReset go s = .next (cut s.resetIn s t) := by
  cases h : s.resetIn with
  | none => rw [underReset_of_none h, hg, cut, withReset_self (ht.trans h)]
  | some n =>
    obtain ⟨n, rfl⟩ := Nat.exists_eq_succ_of_ne_zero fun h0 : n = 0 => hr (h0 ▸ h)
    exact underReset_of_due h hq hg

/-! ## One step of a command in progress -/

/-- `s` with the sequencer at `q` and the reset input at `r`: neither plays a part in an access or in what it leads to.
-/
def placed (q : Sequencer) (r : Option Nat) (s : State) : State := { s with seq := q, resetIn := r }

@[simp] theorem placed_cfg (q : Sequencer) (r : Option Nat) (s : State) : (placed q r s).cfg = s.cfg := rfl

theorem sameBus_placed (q : Sequencer) (r : Option Nat) (s : State) : SameBus s (placed q r s) :=
  ⟨rfl, rfl, rfl, rfl, rfl⟩

theorem memReadCtrl_placed (q : Sequencer) (r : Option Nat) (s : State) :
    memReadCtrl (placed q r s) = ((memReadCtrl s).1, placed q r (memReadCtrl s).2) := by
  unfold memReadCtrl placed
  dsimp only
  split <;> rfl

theorem memReadData_placed (q : Sequencer) (r : Option Nat) (s : State) :
    memReadData (placed q r s) = ((memReadData s).1, placed q r (memReadData s).2) := by
  unfold memReadData placed
  dsimp only
  split <;> rfl

theorem memWriteCtrl_placed (q : Sequencer) (r : Option Nat) (w : Word) (s : State) :
    memWriteCtrl w (placed q r s) = placed q r (memWriteCtrl w s) := rfl

theorem runningAt_placed (w : Work) (q : Sequencer) (r : Option Nat) (s : State) :
    runningAt w (placed q r s) = withReset r (runningAt w s) := rfl

theorem useResult_placed (u : ResultUse) (v : Half) (q : Sequencer) (r : Option Nat) (s : State) :
    useResult u v (placed q r s) = placed q r (useResult u v s) := by
  cases u with
  | unpackEntry =>
    simp only [useResult, unpackAtuData, placed]
    split <;> rfl
  | store | storeDatabase | storeState | storeKind => rfl

theorem commitTasks_placed (c : TableCmd) (q : Sequencer) (r : Option Nat) (s : State) :
    commitTasks c (placed q r s) = commitTasks c s := by
  cases c <;> rfl

theorem proceed_placed (w : Work) (q : Sequencer) (r : Option Nat) (s : State) :
    proceed w (placed q r s) = withReset r (proceed w s) := by
  unfold proceed
  split
  · rw [useResult_placed]; rfl
  · rw [commitTasks_placed, placed_cfg]
    repeat' split
    all_goals rfl
  · rfl
  · rfl

theorem makeAccess_placed (tr : Transaction) (w : Work) (q : Sequencer) (r : Option Nat) (s : State) :
    makeAccess tr w (placed q r s) = withReset r (makeAccess tr w s) := by
  unfold makeAccess
  rw [memReadCtrl_placed, memReadData_placed]
  simp only [memWriteCtrl_placed, proceed_placed, runningAt_placed, placed_cfg]
  split
  case h_1 | h_4 | h_6 => rfl
  case h_2 | h_5 => simp only [apply_ite (withReset r)]; rfl
  case h_3 => split <;> rfl

end Sys2Proof.Machine

/-! PROOFS. What a command has to run, run access by access, ends where its meaning ends (00_scope.md R9; 10_state.md
R25; log 1). -/

namespace Sys2Proof.Machine

/-! ## Stretches of steps -/

/-- One step takes the work `w`, begun at `s`, to `t`, wherever the sequencer and the reset input stand. -/
structure Goes (w : Work) (s t : State) : Prop where
  moves : ∀ q r, continueWork w (placed q r s) = .next (withReset r t)
  access : OneAccess s t
  history : s.history <+: t.history
  commands : t.commands = s.commands
  resetIn : t.resetIn = s.resetIn

/-- One step of a command between two of its accesses. -/
def RunStep (s t : State) : Prop := ∃ w, s.seq = .running w ∧ Goes w s t

/-- The work `w`, begun at `s`, ends in `u` after one step or more. -/
def Leads (w : Work) (s u : State) : Prop := ∃ m, Goes w s m ∧ Relation.ReflTransGen RunStep m u

theorem Goes.leads {w : Work} {s t : State} (h : Goes w s t) : Leads w s t := ⟨t, h, .refl⟩

theorem Goes.runStep {w : Work} {s t : State} (h : Goes w s t) : RunStep (runningAt w s) t :=
  ⟨w, rfl, h.moves, .of_sameBus (sameBus_placed (.running w) s.resetIn s).symm h.access, h.history, h.commands,
   h.resetIn⟩

theorem Leads.trans {w w' : Work} {s m u : State} (h : Leads w s (runningAt w' m)) (k : Leads w' m u) :
    Leads w s u := by
  obtain ⟨a, ha, hm⟩ := h
  obtain ⟨b, hb, hu⟩ := k
  exact ⟨a, ha, hm.trans (.head hb.runStep hu)⟩

/-- Works whose next operation opens alike lead to the same (41_bus_transport.md R131). -/
theorem Leads.of_openNext_eq {w w' : Work} {s u : State}
    (h : openNext s.cfg (openNext s.cfg w) = openNext s.cfg (openNext s.cfg w')) (k : Leads w' s u) : Leads w s u := by
  obtain ⟨m, hm, hu⟩ := k
  refine ⟨m, ⟨fun q r => ?_, hm.access, hm.history, hm.commands, hm.resetIn⟩, hu⟩
  rw [← hm.moves q r]
  simp only [continueWork, placed_cfg, h]

/-! ## One access -/

@[simp] theorem openNext_of_trans {w : Work} {tr : Transaction} (cfg : Config) (h : w.trans = some tr) :
    openNext cfg w = w := by
  simp [openNext, h]

theorem makeAccess_commands (tr : Transaction) (w : Work) (s : State) :
    (makeAccess tr w s).commands = s.commands := (stillBusy_makeAccess tr w s).commands

theorem makeAccess_resetIn (tr : Transaction) (w : Work) (s : State) : (makeAccess tr w s).resetIn = s.resetIn := by
  have h : makeAccess tr w s = withReset s.resetIn (makeAccess tr w s) := makeAccess_placed tr w s.seq s.resetIn s
  rw [h, withReset_resetIn]

/-- A Bus Transaction in flight makes its next access. -/
theorem leads_makeAccess {w : Work} {tr : Transaction} (h : w.trans = some tr) (s : State) :
    Leads w s (makeAccess tr w s) := by
  refine Goes.leads
    ⟨fun q r => ?_, oneAccess_makeAccess tr w s, ?_, makeAccess_commands tr w s, makeAccess_resetIn tr w s⟩
  · simp only [continueWork, openNext_of_trans _ h, h, makeAccess_placed]
  · rcases makeAccess_history tr w s with ⟨ev, h⟩ | ⟨-, h⟩
    · exact h ▸ List.prefix_append _ _
    · exact h ▸ List.prefix_rfl

/-- `w` with the Bus Transaction of `op` in flight, in phase `ph`. -/
def inFlight (op : BusOp) (ph : TransportPhase) (w : Work) : Work := { w with trans := some ⟨op, ph⟩ }

theorem leads_inFlight (op : BusOp) (ph : TransportPhase) (w : Work) (s : State) :
    Leads (inFlight op ph w) s (makeAccess ⟨op, ph⟩ (inFlight op ph w) s) := leads_makeAccess rfl s

/-! ## The delivery -/

/-- A step that only answers. -/
theorem leads_of_answer {w : Work} {s u : State} (h : ∀ q r, continueWork w (placed q r s) = .next (withReset r u))
    (hbus : SameBus s u) (hc : u.commands = s.commands) (hr : u.resetIn = s.resetIn) : Leads w s u :=
  Goes.leads ⟨h, .inl hbus, hbus.history ▸ List.prefix_rfl, hc, hr⟩

theorem sameBus_respond (st : Status) (v : Half) (s : State) : SameBus s (respond st v s) := ⟨rfl, rfl, rfl, rfl, rfl⟩

theorem leads_answer (st : Status) (last v : Half) (s : State) :
    Leads ⟨st, last, none, [.answer v]⟩ s (respond st (if st = .ok then v else 0) s) :=
  leads_of_answer (fun _ _ => rfl) (sameBus_respond ..) rfl rfl

theorem leads_answerLast (last : Half) (s : State) : Leads ⟨.ok, last, none, [.answerLast]⟩ s (respond .ok last s) :=
  leads_of_answer (fun _ _ => rfl) (sameBus_respond ..) rfl rfl

theorem leads_answerTask (a : Option (BitVec 4)) (last : Half) (s : State) :
    Leads ⟨.ok, last, none, [answerTask a]⟩ s (respond .ok (answerValue a s) s) := by
  cases a <;> exact leads_of_answer (fun _ _ => rfl) (sameBus_respond ..) rfl rfl

/-- A failed command with nothing to restore only answers (60_exceptions.md R272). -/
theorem leads_answer_failed (st : Status) (last : Half) (s : State) :
    Leads ⟨st, last, none, [.answer 0]⟩ s (raise st s) := by
  have h := leads_answer st last 0 s
  rwa [ite_self] at h

/-! ## The polls -/

/-- Where a poll leads: on with `w` when it succeeded, on with `w'` when its countdown ran out. -/
def afterPoll (w w' : Work) : Except Status Unit × State → State
  | (.ok _, t) => runningAt w t
  | (.error _, t) => runningAt w' t

/-- T_BUSY, read by read (41_bus_transport.md R132). -/
theorem leads_pollBusyFrom (op : BusOp) (n : Nat) (w : Work) (s : State) :
    Leads (inFlight op (.busy n) w) s
      (afterPoll (inFlight op .issue w) (w.failed .timeout) (pollBusyFrom n s)) := by
  induction n generalizing s with
  | zero => exact leads_inFlight _ _ w s
  | succ n ih =>
    have hstep := leads_inFlight op (.busy (n + 1)) w s
    by_cases hb : (memReadCtrl s).1.getLsbD s.cfg.bus.busyBit = true
    · rw [pollBusyFrom, if_pos hb]
      simp only [makeAccess, if_pos hb] at hstep
      cases n with
      | zero => exact hstep
      | succ n => exact hstep.trans (ih _)
    · rw [pollBusyFrom, if_neg hb]
      simp only [makeAccess, if_neg hb] at hstep
      exact hstep

/-- T_RVALID, read by read (41_bus_transport.md R136). -/
theorem leads_pollValidFrom (op : BusOp) (n : Nat) (w : Work) (s : State) :
    Leads (inFlight op (.rvalid n) w) s
      (afterPoll (inFlight op .data w) (w.failed .timeout) (pollValidFrom n s)) := by
  induction n generalizing s with
  | zero => exact leads_inFlight _ _ w s
  | succ n ih =>
    have hstep := leads_inFlight op (.rvalid (n + 1)) w s
    by_cases hv : (memReadCtrl s).1.getLsbD s.cfg.bus.rvalidBit = true
    · rw [pollValidFrom, if_pos hv]
      simp only [makeAccess, if_pos hv] at hstep
      exact hstep
    · rw [pollValidFrom, if_neg hv]
      simp only [makeAccess, if_neg hv] at hstep
      cases n with
      | zero => exact hstep
      | succ n => exact hstep.trans (ih _)

/-! ## A whole Bus Transport operation -/

/-- What an operation does, with the value last read after it: a read's own value, else the one before. -/
def performOp (op : BusOp) (last : Half) : Bus Half :=
  match op with
  | .read dev reg => smiRead dev reg
  | .write dev reg v => andThen (smiWrite dev reg v) fun _ => give last

/-- Where an operation leads: to what it leads to, or to the failure of a countdown. -/
def afterOp (w : Work) : Except Status Half × State → State
  | (.ok v, t) => proceed { w with trans := none, last := v } t
  | (.error _, t) => runningAt (w.failed .timeout) t

theorem performOp_of_illegal {op : BusOp} {s : State} (h : addressLegal s.cfg op.device = false) (last : Half) :
    performOp op last s = (.error .invalidAddress, s) := by
  cases op with
  | read dev reg => exact andThen_of_error (checkAddress_of_illegal h)
  | write dev reg v => exact andThen_of_error (andThen_of_error (checkAddress_of_illegal h))

/-- After the address check a failing operation has timed out (41_bus_transport.md R130). -/
theorem performOp_error {op : BusOp} {last : Half} {s t : State} {e : Status}
    (ha : addressLegal s.cfg op.device = true) (h : performOp op last s = (.error e, t)) : e = .timeout := by
  cases op with
  | read dev reg =>
    rcases smiRead_error h with ⟨-, -, hill⟩ | he
    · exact absurd (ha.symm.trans hill) (by decide)
    · exact he
  | write dev reg v =>
    rcases andThen_cases (smiWrite dev reg v) (fun _ => give last) s with ⟨e', t', hw, heq⟩ | ⟨_, t', -, heq⟩
    · simp only [performOp, heq, Prod.mk.injEq, Except.error.injEq] at h
      rcases smiWrite_error hw with ⟨-, -, hill⟩ | he
      · exact absurd (ha.symm.trans hill) (by decide)
      · exact h.1 ▸ he
    · simp [performOp, heq, give] at h

theorem andThen_assoc {α β γ : Type} (m : Bus α) (k : α → Bus β) (l : β → Bus γ) (s : State) :
    andThen (andThen m k) l s = andThen m (fun a => andThen (k a) l) s := by
  rcases andThen_cases m k s with ⟨e, t, h, heq⟩ | ⟨a, t, h, heq⟩
  · rw [andThen_of_error heq, andThen_of_error h]
  · rw [andThen_of_ok h, andThen, heq]; rfl

/-- A poll, and what the operation does once it has succeeded. -/
theorem Leads.poll {w w₁ w₂ : Work} {s : State} {m : Bus Unit} {k : Unit → Bus Half}
    (hm : Leads w₁ s (afterPoll w₂ (w.failed .timeout) (m s))) (hk : ∀ t, Leads w₂ t (afterOp w (k () t))) :
    Leads w₁ s (afterOp w (andThen m k s)) := by
  rcases andThen_cases m k s with ⟨e, t, h, heq⟩ | ⟨_, t, h, heq⟩ <;> rw [h] at hm <;> rw [heq]
  · exact hm
  · exact hm.trans (hk t)

theorem leads_pollBusy (op : BusOp) (w : Work) (s : State) :
    Leads (inFlight op (.busy s.cfg.bus.busyPollMax) w) s
      (afterPoll (inFlight op .issue w) (w.failed .timeout) (pollBusy s)) := leads_pollBusyFrom op _ w s

theorem leads_pollValid (op : BusOp) (w : Work) (s : State) :
    Leads (inFlight op (.rvalid s.cfg.bus.rvalidPollMax) w) s
      (afterPoll (inFlight op .data w) (w.failed .timeout) (pollValid s)) := leads_pollValidFrom op _ w s

/-- An opened Bus Transaction, access by access, is its operation (41_bus_transport.md R133, R134). -/
theorem leads_transaction {op : BusOp} {w : Work} {s : State} (ha : addressLegal s.cfg op.device = true) :
    Leads (inFlight op (.busy s.cfg.bus.busyPollMax) w) s (afterOp w (performOp op w.last s)) := by
  cases op with
  | read dev reg =>
    rw [performOp, smiRead, andThen_of_ok (checkAddress_of_legal (dev := dev) ha)]
    refine (leads_pollBusy _ w s).poll fun t => ?_
    rw [andThen_issue]
    refine (leads_inFlight (.read dev reg) .issue w t).trans ?_
    exact (leads_pollValid (.read dev reg) w (memWriteCtrl _ t)).poll fun u => leads_inFlight (.read dev reg) .data w u
  | write dev reg v =>
    rw [performOp, smiWrite, andThen_assoc, andThen_of_ok (checkAddress_of_legal (dev := dev) ha), andThen_assoc]
    exact (leads_pollBusy _ w s).poll fun t => leads_inFlight (.write dev reg v) .issue w t

/-! ## The next operation of a command -/

section Opening
variable {cfg : Config} {k : Task} {op : BusOp} {st : Status} {last : Half} {rest : List Task}

theorem openNext_of_none (hk : k.busOp cfg last = none) :
    openNext cfg ⟨st, last, none, k :: rest⟩ = ⟨st, last, none, k :: rest⟩ := by
  simp [openNext, hk]

theorem openNext_of_legal (hk : k.busOp cfg last = some op) (ha : addressLegal cfg op.device = true) :
    openNext cfg ⟨st, last, none, k :: rest⟩ = inFlight op (.busy cfg.bus.busyPollMax) ⟨st, last, none, rest⟩ := by
  simp [openNext, hk, ha, inFlight]

theorem openNext_of_illegal (hk : k.busOp cfg last = some op) (ha : addressLegal cfg op.device = false) :
    openNext cfg ⟨st, last, none, k :: rest⟩ = Work.failed .invalidAddress ⟨st, last, none, rest⟩ := by
  simp [openNext, hk, ha]

theorem openNext_inFlight (op : BusOp) (ph : TransportPhase) (w : Work) :
    openNext cfg (inFlight op ph w) = inFlight op ph w := openNext_of_trans cfg rfl

end Opening

/-- What a failure leaves to run is an answer, or one page restore and an answer (46_port_config.md R249). -/
def Recovers (rest : List Task) : Prop :=
  afterFailure rest = [.answer 0] ∨ ∃ dev, afterFailure rest = [.restorePage dev, .answer 0]

/-- After a failure one opening settles what comes next: the page restore, if one is due, is not followed by another. -/
theorem openNext_openNext_failed {rest : List Task} (h : Recovers rest) (cfg : Config) (e st : Status) (last : Half) :
    openNext cfg (openNext cfg (Work.failed e ⟨st, last, none, rest⟩)) =
      openNext cfg (Work.failed e ⟨st, last, none, rest⟩) := by
  unfold Work.failed
  rcases h with h | ⟨dev, h⟩ <;> rw [h]
  · rw [openNext_of_none rfl, openNext_of_none rfl]
  · cases ha : addressLegal cfg dev with
    | true => rw [openNext_of_legal rfl ha, openNext_inFlight]
    | false => rw [openNext_of_illegal rfl ha]; exact openNext_of_none rfl

section Operation
variable {k : Task} {op : BusOp} {st e : Status} {last v : Half} {rest : List Task} {s t u : State}

/-- A task whose address is legal leads where its operation leads. -/
theorem leads_of_legal (hk : k.busOp s.cfg last = some op) (ha : addressLegal s.cfg op.device = true) :
    Leads ⟨st, last, none, k :: rest⟩ s (afterOp ⟨st, last, none, rest⟩ (performOp op last s)) :=
  Leads.of_openNext_eq (by rw [openNext_of_legal hk ha, openNext_inFlight, openNext_inFlight]) (leads_transaction ha)

/-- A task that makes an operation goes on, when the operation succeeds. -/
theorem leads_of_op_ok (hk : k.busOp s.cfg last = some op) (h : performOp op last s = (.ok v, t)) :
    Leads ⟨st, last, none, k :: rest⟩ s (proceed ⟨st, v, none, rest⟩ t) := by
  cases ha : addressLegal s.cfg op.device with
  | false => simp [performOp_of_illegal ha] at h
  | true =>
    have hop := leads_of_legal (st := st) (rest := rest) hk ha
    rwa [h] at hop

/-- A task whose operation fails leads where the failure leads; no step comes between when it is the address check that
failed. -/
theorem leads_of_op_error (hk : k.busOp s.cfg last = some op) (h : performOp op last s = (.error e, t))
    (hr : Recovers rest) (hu : Leads (Work.failed e ⟨st, last, none, rest⟩) t u) :
    Leads ⟨st, last, none, k :: rest⟩ s u := by
  cases ha : addressLegal s.cfg op.device with
  | false =>
    obtain ⟨rfl, rfl⟩ : .invalidAddress = e ∧ s = t := by simpa [performOp_of_illegal ha] using h
    exact hu.of_openNext_eq (by rw [openNext_of_illegal hk ha, openNext_openNext_failed hr])
  | true =>
    have hop := leads_of_legal (st := st) (rest := rest) hk ha
    rw [h] at hop
    obtain rfl := performOp_error ha h
    exact hop.trans hu

end Operation

/-! ## Failures and the page restore -/

/-- The page restore and the answer after it (46_port_config.md R249). -/
theorem leads_restorePage (dev : Nat) (st : Status) (last : Half) (s : State) :
    Leads ⟨st, last, none, [.restorePage dev, .answer 0]⟩ s (restorePage dev st s) := by
  rw [restorePage_eq]
  match h : smiWrite dev s.cfg.phy.pageReg s.cfg.phy.pageDefault s with
  | (.ok _, t) =>
    have hop : performOp (.write dev s.cfg.phy.pageReg s.cfg.phy.pageDefault) last s = (.ok last, t) := andThen_of_ok h
    refine (leads_of_op_ok (rest := [.answer 0]) rfl hop).trans ?_
    have hend := leads_answer_failed st last t
    cases st <;> exact hend
  | (.error e, t) =>
    have hop : performOp (.write dev s.cfg.phy.pageReg s.cfg.phy.pageDefault) last s = (.error e, t) :=
      andThen_of_error h
    exact leads_of_op_error (rest := [.answer 0]) rfl hop (.inl rfl) (leads_answer_failed _ last t)

/-- Where a command whose first failure is `e` ends, `rest` being what it still had to run. -/
def failureEnd (rest : List Task) (e : Status) (s : State) : State :=
  match afterFailure rest with
  | .restorePage dev :: _ => restorePage dev e s
  | _ => raise e s

theorem leads_failed {rest : List Task} (hr : Recovers rest) (e : Status) (last : Half) (s : State) :
    Leads (Work.failed e ⟨.ok, last, none, rest⟩) s (failureEnd rest e s) := by
  unfold Work.failed failureEnd
  rcases hr with h | ⟨dev, h⟩ <;> rw [h]
  · exact leads_answer_failed e last s
  · exact leads_restorePage dev e last s

end Sys2Proof.Machine

/-! PROOFS. Every command, run access by access, is its meaning, and so the machine's step is made of the sequencer's
(00_scope.md R9; log 1, log 8). -/

namespace Sys2Proof.Machine

/-! ## Tasks that are a piece of a command -/

/-- A task that is one Bus Transport operation of a command's body. -/
def Task.transfers : Task → Bool
  | .read .. | .write .. | .merge .. => true
  | _ => false

/-- What may follow a piece: nothing that the piece's last operation leads to by itself, and one page restore at most.
-/
structure Follows (rest : List Task) : Prop where
  plain : ∀ (st : Status) (last : Half) (s : State),
    proceed ⟨st, last, none, rest⟩ s = runningAt ⟨st, last, none, rest⟩ s
  recovers : Recovers rest

theorem follows_answer (v : Half) : Follows [.answer v] := ⟨fun _ _ _ => rfl, .inl rfl⟩

theorem follows_restorePage (dev : Nat) : Follows [.restorePage dev, .answer 0] := ⟨fun _ _ _ => rfl, .inr ⟨dev, rfl⟩⟩

theorem follows_pollTasks (cfg : Config) (c : TableCmd) (ph : WaitPhase) (k : Nat) : Follows (pollTasks cfg c ph k) :=
  ⟨fun _ _ _ => rfl, .inl rfl⟩

/-- A failure skips the rest of the body. -/
theorem afterFailure_cons {k : Task} (hk : k.transfers = true) (rest : List Task) :
    afterFailure (k :: rest) = afterFailure rest := by
  cases k with
  | read | write | merge => rfl
  | _ => cases hk

theorem afterFailure_append {ts : List Task} (hts : ∀ k ∈ ts, k.transfers = true) (rest : List Task) :
    afterFailure (ts ++ rest) = afterFailure rest := by
  induction ts with
  | nil => rfl
  | cons k ts ih =>
    rw [List.cons_append, afterFailure_cons (hts k (by simp)), ih fun k hk => hts k (by simp [hk])]

theorem Follows.append {ts rest : List Task} (hts : ∀ k ∈ ts, k.transfers = true) (h : Follows rest) :
    Follows (ts ++ rest) := by
  refine ⟨?_, by rw [Recovers, afterFailure_append hts]; exact h.recovers⟩
  cases ts with
  | nil => exact h.plain
  | cons k ts =>
    have hk := hts k (by simp)
    cases k with
    | read | write | merge => exact fun _ _ _ => rfl
    | _ => cases hk

section Task
variable {k : Task} {op : BusOp} {last v : Half} {rest : List Task} {s t u : State} {e : Status}

/-- The operation succeeds, and the command goes on with what follows. -/
theorem leads_on (hk : k.busOp s.cfg last = some op) (h : performOp op last s = (.ok v, t)) (hrest : Follows rest)
    (hu : Leads ⟨.ok, v, none, rest⟩ t u) : Leads ⟨.ok, last, none, k :: rest⟩ s u := by
  have hop := leads_of_op_ok (st := .ok) (rest := rest) hk h
  rw [hrest.plain] at hop
  exact hop.trans hu

/-- The operation fails, and the command ends (60_exceptions.md R272). -/
theorem leads_off (hk : k.busOp s.cfg last = some op) (h : performOp op last s = (.error e, t)) (hr : Recovers rest) :
    Leads ⟨.ok, last, none, k :: rest⟩ s (failureEnd rest e t) :=
  leads_of_op_error hk h hr (leads_failed hr e last t)

end Task

/-- The tasks `ts` make the piece `m` of a command under the configuration `cfg`: where the command ends after it, when
it succeeds and when it fails, is where it ends with the tasks to run. -/
structure Performs {α : Type} (cfg : Config) (ts : List Task) (m : Bus α) : Prop where
  transfers : ∀ k ∈ ts, k.transfers = true
  bus : BusPiece m
  leads : ∀ {last : Half} {rest : List Task} {s u : State}, s.cfg = cfg → Follows rest →
    (∀ a t last', m s = (.ok a, t) → Leads ⟨.ok, last', none, rest⟩ t u) →
    (∀ e t, m s = (.error e, t) → failureEnd rest e t = u) → Leads ⟨.ok, last, none, ts ++ rest⟩ s u

theorem performs_nil (cfg : Config) : Performs cfg [] (give ()) :=
  ⟨by simp, busPiece_give (), fun _ _ hok _ => hok () _ _ rfl⟩

/-- One piece after another. -/
theorem Performs.andThen {α β : Type} {cfg : Config} {ts ts' : List Task} {m : Bus α} {k : α → Bus β}
    (hm : Performs cfg ts m) (hk : ∀ a, Performs cfg ts' (k a)) (hts' : ∀ t ∈ ts', t.transfers = true) :
    Performs cfg (ts ++ ts') (andThen m k) := by
  refine ⟨?_, hm.bus.andThen fun a => (hk a).bus, ?_⟩
  · intro t ht
    rcases List.mem_append.1 ht with ht | ht
    · exact hm.transfers t ht
    · exact hts' t ht
  · intro last rest s u hcfg hrest hok herr
    rw [List.append_assoc]
    refine hm.leads hcfg (hrest.append hts') (fun a t last' h => ?_) (fun e t h => ?_)
    · have ht : t.cfg = cfg := by have := (hm.bus s).cfg; rw [h] at this; exact this.trans hcfg
      rw [andThen_of_ok h] at hok herr
      exact (hk a).leads ht hrest hok herr
    · rw [← herr e t (andThen_of_error h), failureEnd, failureEnd, afterFailure_append hts']

/-- A write is one piece (41_bus_transport.md R134). -/
theorem performs_write (cfg : Config) (dev : Nat) (reg : RegNum) (v : Half) :
    Performs cfg [.write dev reg v] (smiWrite dev reg v) := by
  refine ⟨by simp [Task.transfers], busPiece_smiWrite dev reg v, ?_⟩
  intro last rest s u hcfg hrest hok herr
  match h : smiWrite dev reg v s with
  | (.ok a, t) =>
    exact leads_on (k := .write dev reg v) rfl (andThen_of_ok h) hrest (hok a t last h)
  | (.error e, t) =>
    exact herr e t h ▸ leads_off (k := .write dev reg v) rfl (andThen_of_error h) hrest.recovers

/-- A field write is two: the value read goes into the value written (42_field_codec.md R151). -/
theorem performs_writeField (cfg : Config) (dev : Nat) (reg : RegNum) (off : BitVec 4) (len : BitVec 5) (val : Half) :
    Performs cfg [.read dev reg, .merge dev reg off len val] (writeField dev reg off len val) := by
  have htransfers : ∀ k ∈ [Task.merge dev reg off len val], k.transfers = true := by simp [Task.transfers]
  refine ⟨by simp [Task.transfers], busPiece_writeField dev reg off len val, ?_⟩
  intro last rest s u hcfg hrest hok herr
  have hmerge := hrest.append htransfers
  match h : smiRead dev reg s with
  | (.ok v, t) =>
    refine leads_on (k := .read dev reg) rfl h hmerge ?_
    rw [writeField, andThen_of_ok h] at hok herr
    match h' : smiWrite dev reg (mergeField v off len val) t with
    | (.ok a, t') =>
      exact leads_on (k := .merge dev reg off len val) rfl (andThen_of_ok h') hrest (hok a t' _ h')
    | (.error e, t') =>
      exact herr e t' h' ▸ leads_off (k := .merge dev reg off len val) rfl (andThen_of_error h') hrest.recovers
  | (.error e, t) =>
    rw [← herr e t (andThen_of_error h), failureEnd, ← afterFailure_append htransfers rest]
    exact leads_off (k := .read dev reg) rfl h hmerge.recovers

/-- E_DATA and E_COMMIT (44_atu_engine.md R187). -/
theorem performs_writeAll (cfg : Config) (dev : Nat) (ws : List (RegNum × Half)) :
    Performs cfg (ws.map fun w => .write dev w.1 w.2) (writeAll dev ws) := by
  induction ws with
  | nil => exact performs_nil cfg
  | cons w ws ih => exact (performs_write cfg dev w.1 w.2).andThen (fun _ => ih) ih.transfers

/-- A piece that looks its register up in the configuration. -/
theorem Performs.of_cfg {α : Type} {cfg : Config} {ts : List Task} {m : Config → Bus α}
    (hbus : ∀ c, BusPiece (m c)) (h : Performs cfg ts (m cfg)) : Performs cfg ts fun s => m s.cfg s := by
  refine ⟨h.transfers, fun s => hbus s.cfg s, ?_⟩
  intro last rest s u hcfg hrest hok herr
  subst hcfg
  exact h.leads rfl hrest hok herr

/-- The bits of PHY_POWER (46_port_config.md R249). -/
theorem performs_powerBits (cfg : Config) (dev : Nat) (v : Half) (bits : List PowerBit) :
    Performs cfg (bits.flatMap fun b =>
      [.read dev (regNumber cfg b.reg),
       .merge dev (regNumber cfg b.reg) b.off b.len (if v = 0 then b.down else b.up)]) (powerBits dev v bits) := by
  induction bits with
  | nil => exact performs_nil cfg
  | cons b bits ih =>
    have hfield := Performs.of_cfg
      (m := fun c => writeField dev (regNumber c b.reg) b.off b.len (if v = 0 then b.down else b.up))
      (fun c => busPiece_writeField _ _ _ _ _) (performs_writeField cfg dev (regNumber cfg b.reg) b.off b.len _)
    exact hfield.andThen (fun _ => ih) ih.transfers

/-- A piece and the answer after it are the command. -/
theorem Performs.finish {cfg : Config} {ts : List Task} {m : Bus Unit} (h : Performs cfg ts m) (v last : Half)
    {s : State} (hcfg : s.cfg = cfg) :
    Leads ⟨.ok, last, none, ts ++ [.answer v]⟩ s (Machine.finish (Machine.andThen m fun _ => give v) s) := by
  refine h.leads hcfg (follows_answer v) (fun a t last' hm => ?_) (fun e t hm => ?_)
  · rw [Machine.finish, andThen_of_ok hm]
    exact leads_answer .ok last' v t
  · rw [Machine.finish, andThen_of_error hm]
    rfl

/-! ## The table engine -/

theorem andThen_congr {α β : Type} {m m' : Bus α} (k : α → Bus β) {s s' : State} (h : m s = m' s') :
    andThen m k s = andThen m' k s' := by
  simp only [andThen, h]

theorem finish_congr {m m' : Bus Half} {s s' : State} (h : m s = m' s') : finish m s = finish m' s' := by
  simp only [finish, h]

/-- One result read and used: the reading ends there, or goes on (44_atu_engine.md R200, R202). -/
theorem readAll_cons_of_ok {dev : Nat} {r : RegNum × ResultUse} {s t : State} {v : Half}
    (h : smiRead dev r.1 s = (.ok v, t)) (rs : List (RegNum × ResultUse)) :
    readAll dev (r :: rs) s =
      if endsReadBack t.cfg r.2 v then (.ok (), useResult r.2 v t) else readAll dev rs (useResult r.2 v t) := by
  rw [readAll, andThen_of_ok h, andThen]
  dsimp only
  split <;> rfl

/-- The tasks of E_RESULT. -/
def readTasks (dev : Nat) (a : Option (BitVec 4)) (rs : List (RegNum × ResultUse)) : List Task :=
  rs.flatMap (fun r => [.read dev r.1, .use r.2]) ++ [answerTask a]

theorem resultTasks_eq (cfg : Config) (c : TableCmd) :
    resultTasks cfg c = readTasks (tablePlan cfg c).dev (tablePlan cfg c).answer (tablePlan cfg c).results := rfl

theorem proceed_use_going {u : ResultUse} {v : Half} {s : State} (h : endsReadBack s.cfg u v = false) (st : Status)
    (rest : List Task) :
    proceed ⟨st, v, none, .use u :: rest⟩ s = runningAt ⟨st, v, none, rest⟩ (useResult u v s) := by
  simp [proceed, h]

/-- A result that ends the reading skips the other results (44_atu_engine.md R200). -/
theorem proceed_use_ended {u : ResultUse} {v : Half} {s : State} (h : endsReadBack s.cfg u v = true) (st : Status)
    (dev : Nat) (a : Option (BitVec 4)) (rs : List (RegNum × ResultUse)) :
    proceed ⟨st, v, none, .use u :: readTasks dev a rs⟩ s =
      runningAt ⟨st, v, none, [answerTask a]⟩ (useResult u v s) := by
  simp only [proceed, h, if_true]
  congr 2
  induction rs with
  | nil => cases a <;> rfl
  | cons r rs ih => exact ih

/-- A failed result read leaves only the answer to run (44_atu_engine.md R202). -/
theorem afterFailure_readTasks (dev : Nat) (a : Option (BitVec 4)) (rs : List (RegNum × ResultUse)) :
    afterFailure (readTasks dev a rs) = [.answer 0] := by
  induction rs with
  | nil => cases a <;> rfl
  | cons r rs ih => exact ih

/-- E_RESULT and the answer: each result is used as soon as it is read (44_atu_engine.md R202). -/
theorem leads_readAll (dev : Nat) (a : Option (BitVec 4)) (rs : List (RegNum × ResultUse)) (last : Half) (s : State) :
    Leads ⟨.ok, last, none, readTasks dev a rs⟩ s
      (finish (andThen (readAll dev rs) fun _ => fun t => give (answerValue a t) t) s) := by
  induction rs generalizing last s with
  | nil => exact leads_answerTask a last s
  | cons r rs ih =>
    match h : smiRead dev r.1 s with
    | (.error e, t) =>
      have hfail : afterFailure (.use r.2 :: readTasks dev a rs) = [.answer 0] := afterFailure_readTasks dev a rs
      have hread := leads_off (k := .read dev r.1) (last := last) rfl h (.inl hfail)
      rw [failureEnd, hfail] at hread
      rwa [finish, andThen_of_error (m := readAll dev (r :: rs)) (andThen_of_error h)]
    | (.ok v, t) =>
      have hread := leads_of_op_ok (k := .read dev r.1) (st := .ok) (last := last)
        (rest := .use r.2 :: readTasks dev a rs) rfl h
      have hrest := readAll_cons_of_ok h rs
      cases hend : endsReadBack t.cfg r.2 v with
      | true =>
        rw [proceed_use_ended hend] at hread
        rw [hend, if_pos rfl] at hrest
        rw [finish, andThen_of_ok hrest]
        exact hread.trans (leads_answerTask a v _)
      | false =>
        rw [proceed_use_going hend] at hread
        rw [hend, if_neg (by decide)] at hrest
        rw [finish_congr (andThen_congr _ hrest)]
        exact hread.trans (ih v _)

/-- What follows a Busy-Wait. -/
def clearTasks (c : TableCmd) (ph : WaitPhase) (s : State) : List Task :=
  match ph with
  | .pre => commitTasks c s
  | .post => resultTasks s.cfg c

theorem proceed_test_clear {v : Half} (hv : v.getLsbD 15 = false) (c : TableCmd) (ph : WaitPhase) (k : Nat)
    (s : State) : proceed ⟨.ok, v, none, [.test c ph k]⟩ s = runningAt ⟨.ok, v, none, clearTasks c ph s⟩ s := by
  cases ph <;> simp only [proceed, hv, Bool.false_eq_true, if_false, clearTasks]

theorem proceed_test_exhausted {v : Half} {k : Nat} {s : State} (hv : v.getLsbD 15 = true)
    (hw : waitExhausted s.cfg (k + 1) = true) (c : TableCmd) (ph : WaitPhase) :
    proceed ⟨.ok, v, none, [.test c ph k]⟩ s = runningAt ⟨.timeout, v, none, [.answer 0]⟩ s := by
  simp only [proceed, hv, hw, if_true]
  rfl

theorem proceed_test_busy {v : Half} {k : Nat} {s : State} (hv : v.getLsbD 15 = true)
    (hw : waitExhausted s.cfg (k + 1) = false) (c : TableCmd) (ph : WaitPhase) :
    proceed ⟨.ok, v, none, [.test c ph k]⟩ s = { s with seq := .waiting c ph (k + 1) } := by
  simp [proceed, hv, hw]

/-- A poll of a Busy-Wait and what it leads to (44_atu_engine.md R186). -/
theorem leads_tableWait {c : TableCmd} {ph : WaitPhase} {s : State} {f : State → State}
    (hf : ∀ v t, t.cfg = s.cfg → Leads ⟨.ok, v, none, clearTasks c ph t⟩ t (f t)) (k : Nat) (last : Half) :
    Leads ⟨.ok, last, none, pollTasks s.cfg c ph k⟩ s (tableWait c ph k (tablePlan s.cfg c) f s) := by
  have hcfg := (busPiece_smiRead (tablePlan s.cfg c).dev (tablePlan s.cfg c).opReg s).cfg
  rcases tableWait_cases c ph k (tablePlan s.cfg c) f s with
    ⟨e, t, h, heq⟩ | ⟨v, t, h, hv, heq⟩ | ⟨v, t, h, hv, hw, heq⟩ | ⟨v, t, h, hv, hw, heq⟩ <;> rw [heq]
  · exact leads_off (k := .read _ _) (rest := [.test c ph k]) rfl h (.inl rfl)
  all_goals
    rw [h] at hcfg
    have hread := leads_of_op_ok (k := .read _ _) (st := .ok) (last := last) (rest := [.test c ph k]) rfl h
  · rw [proceed_test_clear hv] at hread
    exact hread.trans (hf v t hcfg)
  · rw [proceed_test_exhausted hv hw] at hread
    exact hread.trans (leads_answer_failed .timeout v t)
  · rw [proceed_test_busy hv hw] at hread
    exact hread

/-- E_POSTWAIT and E_RESULT (44_atu_engine.md R185). -/
theorem leads_runPostWait (c : TableCmd) (k : Nat) (last : Half) (s : State) :
    Leads ⟨.ok, last, none, pollTasks s.cfg c .post k⟩ s (runPostWait c k (tablePlan s.cfg c) s) := by
  refine leads_tableWait (fun v t ht => ?_) k last
  rw [← ht, clearTasks, resultTasks_eq]
  exact leads_readAll _ _ _ v t

/-- E_DATA, E_COMMIT and what follows them (44_atu_engine.md R185). -/
theorem leads_runCommit (c : TableCmd) (last : Half) (s : State) :
    Leads ⟨.ok, last, none, commitTasks c s⟩ s (runCommit c (tablePlan s.cfg c) s) := by
  have hbus := (busPiece_writeAll (tablePlan s.cfg c).dev ((tablePlan s.cfg c).commit s) s).cfg
  refine (performs_writeAll s.cfg _ _).leads rfl ?_ (fun a t last' h => ?_) (fun e t h => ?_)
  · split
    · exact follows_pollTasks s.cfg c .post 0
    · exact follows_answer 0
  · rw [h] at hbus
    simp only [runCommit, h]
    rw [show t.cfg = s.cfg from hbus]
    split
    · rw [← show t.cfg = s.cfg from hbus]
      exact leads_runPostWait c 0 last' t
    · exact leads_answer .ok last' 0 t
  · simp only [runCommit, h]
    split <;> rfl

/-- E_PREWAIT and what follows it (44_atu_engine.md R185). -/
theorem leads_runPreWait (c : TableCmd) (k : Nat) (last : Half) (s : State) :
    Leads ⟨.ok, last, none, pollTasks s.cfg c .pre k⟩ s (runPreWait c k (tablePlan s.cfg c) s) := by
  refine leads_tableWait (fun v t ht => ?_) k last
  rw [← ht]
  exact leads_runCommit c v t

/-- A waiting command goes on (10_state.md R31). -/
theorem leads_resume (c : TableCmd) (ph : WaitPhase) (k : Nat) (s : State) :
    Leads (begun (pollTasks s.cfg c ph k)) s (resume c ph k s) := by
  cases ph with
  | pre => exact leads_runPreWait c k 0 s
  | post => exact leads_runPostWait c k 0 s

/-- A table command that needs the context (40_operand_and_context.md R114). -/
theorem leads_tableWork_of_context {c : TableCmd} (hc : needsContext c = true) (s : State) :
    Leads (tableWork c s) s (requireContext (runPreWait c 0 (tablePlan s.cfg c)) s) := by
  cases hv : s.ctx.valid with
  | true =>
    rw [requireContext_of_valid hv, tableWork, hv, Bool.not_true, Bool.and_false, if_neg (by decide)]
    exact leads_runPreWait c 0 0 s
  | false =>
    rw [requireContext_of_invalid hv, tableWork, hv, hc, Bool.not_false, Bool.and_true, if_pos rfl]
    exact leads_answer_failed .fail 0 s

/-- A table command that reads no context field. -/
theorem leads_tableWork_of_no_context {c : TableCmd} (hc : needsContext c = false) (s : State) :
    Leads (tableWork c s) s (runPreWait c 0 (tablePlan s.cfg c) s) := by
  rw [tableWork, hc, Bool.false_and, if_neg (by decide)]
  exact leads_runPreWait c 0 0 s

/-! ## The port-configuration commands -/

/-- The checks of a port-configuration command, then the command (46_port_config.md R235). -/
theorem leads_portChecks (op : PortOp) (legal : Bool) {todo : List Task} {run : State → State} {s : State}
    (h : Leads (begun todo) s (run s)) :
    Leads (checkedWork (portStatus op legal s) todo) s (portChecks op legal run s) := by
  unfold portChecks
  cases portStatus op legal s with
  | ok => exact h
  | fail | invalidAddress | timeout | badParameter | notSupported => exact leads_answer_failed _ 0 s

/-- A descriptor's field write (46_port_config.md R235). -/
theorem leads_writeDescribed (d : FieldDesc) (port : BitVec 8) (v answer : Half) (s : State) :
    Leads (begun (describedTasks s.cfg d port v answer)) s (writeDescribed d port v answer s) :=
  (performs_writeField s.cfg _ _ _ _ _).finish answer 0 rfl

theorem leads_fieldWork (op : PortOp) (d : FieldDesc) (port : BitVec 8) (v : Half) (s : State) :
    Leads (fieldWork op d port v s) s (pcfg op d port v s) :=
  leads_portChecks op _ (leads_writeDescribed d port v 0 s)

/-- PHY_POWER's page, bits and page restore (46_port_config.md R249). -/
theorem leads_powerSequence (dev : Nat) (v : Half) (s : State) :
    Leads (begun [.write dev s.cfg.phy.pageReg s.cfg.phy.powerPage, .enterPage dev v]) s (powerSequence dev v s) := by
  rcases powerSequence_cases dev v s with ⟨e, t, h, heq⟩ | ⟨t, h, heq⟩ <;> rw [heq]
  · exact leads_off (k := .write _ _ _) (rest := [.enterPage dev v]) rfl (andThen_of_error h) (.inl rfl)
  · have henter := leads_of_op_ok (k := .write _ _ _) (st := .ok) (last := 0) (rest := [.enterPage dev v]) rfl
      (andThen_of_ok h)
    refine Leads.trans (w' := ⟨.ok, 0, none, pageTasks t.cfg dev v⟩) henter ?_
    refine (performs_powerBits t.cfg dev v t.cfg.phy.powerBits).leads rfl (follows_restorePage dev)
      (fun a u last' hb => ?_) (fun e u hb => ?_) <;> rw [hb]
    · exact leads_restorePage dev .ok last' u
    · rfl

/-! ## Every command -/

/-- A register read and its answer (41_bus_transport.md R140; 43_address_mapper.md R170). -/
theorem leads_registerRead (dev : Nat) (reg : RegNum) (s : State) :
    Leads (begun [.read dev reg, .answerLast]) s (finish (smiRead dev reg) s) := by
  rcases finish_cases (smiRead dev reg) s with ⟨v, t, h, heq⟩ | ⟨e, t, h, heq⟩ <;> rw [heq]
  · exact (leads_of_op_ok (k := .read dev reg) (rest := [.answerLast]) rfl h).trans (leads_answerLast v t)
  · exact leads_off (k := .read dev reg) (rest := [.answerLast]) rfl h (.inl rfl)

/-- CTX_RD answers what the context alone determines (40_operand_and_context.md R113). -/
theorem exists_exec_ctxRd (n : BitVec 4) (s : State) :
    ∃ st v, ∀ t : State, t.ctx = s.ctx → exec (.ctxRd n) t = .next (respond st v t) := by
  by_cases hill : 6 < n.toNat
  · exact ⟨.badParameter, 0, fun t _ => by simp [exec, execCtxRd, hill, raise]⟩
  · by_cases hbit : n.toNat = 6
    · exact ⟨.ok, _, fun t ht => by simp only [exec, execCtxRd, hbit, ht, if_true]; rfl⟩
    · cases hvalid : s.ctx.valid with
      | true => exact ⟨.ok, contextField s.ctx n, fun t ht => by simp [exec, execCtxRd, hill, hbit, ht, hvalid]⟩
      | false => exact ⟨.fail, 0, fun t ht => by simp [exec, execCtxRd, hill, hbit, ht, hvalid, raise]⟩

/-- CTX_INIT answers, and makes a context, that the configuration, the operand registers and the old context alone
determine (40_operand_and_context.md R112). -/
theorem exists_exec_ctxInit (s : State) :
    ∃ st ctx, ∀ t : State, t.cfg = s.cfg → t.e = s.e → t.ctx = s.ctx →
      exec .ctxInit t = .next (respond st 0 { t with ctx := ctx }) := by
  cases h : s.cfg.supportedIds.contains (readE 0 s) with
  | true =>
    refine ⟨.ok, contextFromOperands s, fun t hcfg he _ => ?_⟩
    simp only [exec, execCtxInit, contextFromOperands, hcfg, readE_congr he, h, if_true]
  | false =>
    refine ⟨.notSupported, { s.ctx with valid := false }, fun t hcfg he hctx => ?_⟩
    simp only [exec, execCtxInit, hcfg, readE_congr he, hctx, h, raise, Bool.false_eq_true, if_false]

/-- The four commands that make no access (40_operand_and_context.md R110 to R113). -/
theorem leads_exec_of_accessFree {i : Instr} (hi : accessFree i = true) (s : State) :
    ∃ u, exec i s = .next u ∧ Leads (begun [.run i]) s u := by
  cases i with
  | lde n imm => exact ⟨_, rfl, leads_of_answer (fun _ _ => rfl) ⟨rfl, rfl, rfl, rfl, rfl⟩ rfl rfl⟩
  | rde n => exact ⟨_, rfl, leads_of_answer (fun _ _ => rfl) ⟨rfl, rfl, rfl, rfl, rfl⟩ rfl rfl⟩
  | ctxInit =>
    obtain ⟨st, ctx, h⟩ := exists_exec_ctxInit s
    exact ⟨_, h s rfl rfl rfl,
      leads_of_answer (fun q r => h (placed q r s) rfl rfl rfl) ⟨rfl, rfl, rfl, rfl, rfl⟩ rfl rfl⟩
  | ctxRd n =>
    obtain ⟨st, v, h⟩ := exists_exec_ctxRd n s
    exact ⟨_, h s rfl, leads_of_answer (fun q r => h (placed q r s) rfl) ⟨rfl, rfl, rfl, rfl, rfl⟩ rfl rfl⟩
  | _ => cases hi

/-- A command run access by access ends where its meaning ends (log 1). -/
theorem leads_exec (i : Instr) (s : State) : ∃ u, exec i s = .next u ∧ Leads (workOf i s) s u := by
  cases i with
  | lde | rde | ctxInit | ctxRd => exact leads_exec_of_accessFree rfl s
  | smiRd dev reg => exact ⟨_, rfl, leads_registerRead dev.toNat reg s⟩
  | smiWr dev reg val => exact ⟨_, rfl, (performs_write s.cfg dev.toNat reg val).finish 0 0 rfl⟩
  | smiFldWr dev reg off len val => exact ⟨_, rfl, (performs_writeField s.cfg dev.toNat reg off len val).finish 0 0 rfl⟩
  | regRd port reg kind => exact ⟨_, rfl, leads_registerRead _ reg s⟩
  | regWr port reg kind val => exact ⟨_, rfl, (performs_write s.cfg _ reg val).finish 0 0 rfl⟩
  | regFldWr port reg kind off len val => exact ⟨_, rfl, (performs_writeField s.cfg _ reg off len val).finish 0 0 rfl⟩
  | atuFlushAll | atuFlushUnlocked | atuLoadPurge | atuGetNext | atuFlushAllDb | atuFlushUnlockedDb | atuSvcViol =>
    exact ⟨_, rfl, leads_tableWork_of_context rfl s⟩
  | pvtWrite | pvtRead => exact ⟨_, rfl, leads_tableWork_of_no_context rfl s⟩
  | portState port v | portFrameMode port v | portVlanMembers port v | portHeaderMode port v | pcsForceSpeed port v
  | pcsForceDuplex port v | pcsForceFc port v | pcsForceLink port v => exact ⟨_, rfl, leads_fieldWork _ _ port v s⟩
  | portJumbo port size => exact ⟨_, rfl, leads_portChecks _ _ (leads_writeDescribed _ port _ _ s)⟩
  | phyPower port v => exact ⟨_, rfl, leads_portChecks _ _ (leads_powerSequence _ v s)⟩

/-! ## The machine's step -/

/-- What a stretch of a running command leaves alone, and that the history grows. -/
theorem frame_of_runSteps {s u : State} (h : Relation.ReflTransGen RunStep s u) :
    s.history <+: u.history ∧ u.commands = s.commands ∧ u.resetIn = s.resetIn := by
  induction h with
  | refl => exact ⟨List.prefix_rfl, rfl, rfl⟩
  | tail _ hstep ih =>
    obtain ⟨hhistory, hcommands, hreset⟩ := ih
    obtain ⟨w, -, hgo⟩ := hstep
    exact ⟨hhistory.trans hgo.history, hgo.commands.trans hcommands, hgo.resetIn.trans hreset⟩

/-- A running command's step under the reset input. -/
theorem accessStep_of_runStep {s t : State} (h : RunStep s t) {r : Option Nat} (hr : r ≠ some 0) :
    accessStep (withReset r s) = .next (cut r s t) := by
  obtain ⟨w, hw, hgo⟩ := h
  have hadvance : advanceOne (withReset r s) = .next (withReset r t) :=
    (advanceOne_of_running (s := withReset r s) hw).trans (hgo.moves s.seq r)
  rw [accessStep, underReset_eq_cut (by exact hr) (isQuiet_of_busy (.inl (by simp [hw]))) hadvance rfl]
  rw [withReset_resetIn, cut_withReset, cut_congr (sameBus_withReset r s)]

/-- A first step, and the steps that follow it under what is left of the reset count, make the whole stretch cut where
the reset lands (log 8). -/
theorem accessSteps_of_first {s s' m u : State} {r : Option Nat} (hr : r ≠ some 0)
    (hfirst : accessStep s' = .next (cut r s m)) (hm : OneAccess s m) (hrest : Relation.ReflTransGen RunStep m u)
    (hgo : ∀ r' ≠ some 0, ∃ n, accessSteps n (withReset r' m) = .next (cut r' m u)) :
    ∃ n, accessSteps (n + 1) s' = .next (cut r s u) := by
  obtain ⟨hhistory, hcommands, -⟩ := frame_of_runSteps hrest
  rcases cut_step hr hm hhistory hcommands with hland | ⟨r', hr', hnow, hthen⟩
  · exact ⟨0, by simp only [accessSteps, hfirst, hland]⟩
  · obtain ⟨n, hn⟩ := hgo r' hr'
    exact ⟨n, by simp only [accessSteps, hfirst, hnow, hn, hthen]⟩

/-- The steps of a running command to its end, under the reset input. -/
theorem accessSteps_of_runSteps {s u : State} (h : Relation.ReflTransGen RunStep s u) :
    ∀ r ≠ some 0, ∃ n, accessSteps n (withReset r s) = .next (cut r s u) := by
  induction h using Relation.ReflTransGen.head_induction_on with
  | refl => exact fun r hr => ⟨0, by rw [cut_self hr, accessSteps]⟩
  | head hstep hrest ih =>
    intro r hr
    have hfirst := accessStep_of_runStep hstep hr
    obtain ⟨w, -, hgo⟩ := hstep
    obtain ⟨n, hn⟩ := accessSteps_of_first hr hfirst hgo.access hrest ih
    exact ⟨n + 1, hn⟩

/-- A word taken from the port is latched as what it has to run, and that ends where running the word ends
(30_encoding.md R88; 10_state.md R31). -/
theorem exists_leads_of_word (w : Command) (s : State) :
    ∃ work u, acceptWord w s = runningAt work s ∧ runWord w s = .next u ∧ Leads work s u := by
  unfold acceptWord runWord
  cases decode w with
  | ok i =>
    obtain ⟨u, hu, hleads⟩ := leads_exec i s
    exact ⟨workOf i s, u, rfl, hu, hleads⟩
  | error why => exact ⟨turnedAway .badParameter, _, rfl, rfl, leads_answer_failed .badParameter 0 s⟩

/-- From `s` the machine's step does what ends in `u`, and the sequencer's first step leads to `m` and so to `u`. -/
structure FirstStep (s m u : State) : Prop where
  whole : advance s = .next u
  first : advanceOne s = .next m
  access : OneAccess s m
  resetIn : m.resetIn = s.resetIn
  rest : Relation.ReflTransGen RunStep m u

/-- A block with something to do, and no command between two accesses, has such a first step: an acceptance, or the
first access of a poll. -/
theorem exists_firstStep {s : State} (hrun : ∀ w, s.seq ≠ .running w) (hq : isQuiet s = false) :
    ∃ m u, FirstStep s m u := by
  cases hseq : s.seq with
  | running w => exact absurd hseq (hrun w)
  | waiting c ph k =>
    obtain ⟨m, hgo, hrest⟩ := leads_resume c ph k s
    have hmove := hgo.moves s.seq s.resetIn
    rw [withReset_self hgo.resetIn] at hmove
    exact ⟨m, _, advance_of_waiting hseq, (advanceOne_of_waiting hseq).trans hmove, hgo.access, hgo.resetIn, hrest⟩
  | idle =>
    cases hc : s.commands with
    | nil => simp [isQuiet, hseq, hc] at hq
    | cons w cs =>
      obtain ⟨work, u, hacc, hu, b, hgo, hrest⟩ := exists_leads_of_word w (acceptCommand cs s)
      refine ⟨runningAt work (acceptCommand cs s), u, ?_, ?_,
        .inl ⟨rfl, rfl, rfl, rfl, rfl⟩, rfl, .head hgo.runStep hrest⟩
      · simp [advance, hseq, hc, hu]
      · rw [advanceOne_of_word hseq hc, hacc]

/-- A reset due now, or nothing to do: the two kinds of step are the same. -/
theorem accessStep_eq_step_of_now {s : State} (h : s.resetIn = some 0 ∨ isQuiet s = true) : accessStep s = step s := by
  cases hr : s.resetIn with
  | some n =>
    have hnow : n = 0 ∨ isQuiet s = true := h.imp_left fun h0 => Option.some.inj (hr.symm.trans h0)
    rw [accessStep, step, underReset_of_now hr hnow, underReset_of_now hr hnow]
  | none =>
    have hquiet : s.seq = .idle ∧ s.commands = [] := by simpa [hr, isQuiet] using h
    rw [accessStep, step, underReset_of_none hr, underReset_of_none hr, advanceOne_of_quiet hquiet.1 hquiet.2]
    simp [advance, hquiet]

/-- Settles O12: the sequencer's steps run the command to its end, and the reset input cuts them where it cuts the
whole. -/
theorem accessStepsMakeTheStep : Obligations.AccessStepsMakeTheStep := by
  intro s t hrun hstep
  by_cases hnow : s.resetIn = some 0 ∨ isQuiet s = true
  · refine ⟨0, ?_⟩
    simp only [accessSteps, accessStep_eq_step_of_now hnow, hstep]
  · obtain ⟨hr, hq⟩ := not_or.1 hnow
    rw [Bool.not_eq_true] at hq
    obtain ⟨m, u, h⟩ := exists_firstStep hrun hq
    obtain ⟨-, -, hreset⟩ := frame_of_runSteps h.rest
    rw [step, underReset_eq_cut hr hq h.whole (hreset.trans h.resetIn)] at hstep
    rw [← hstep]
    exact accessSteps_of_first hr (underReset_eq_cut hr hq h.first h.resetIn) h.access h.rest
      (accessSteps_of_runSteps h.rest)

end Sys2Proof.Machine

/-! PROOFS. What a command, and a step of its wait, leaves alone (10_state.md R21 to R23, R28; 44_atu_engine.md R202). -/

namespace Sys2Proof.Machine

/-! ## The frame of a command's run to its answer or its wait -/

/-- From `s` to `t` a command has run: the bus side has moved, the response and the sequencer may be new, and only the
operand registers `regs` may have been written. -/
structure RunFrame (regs : List (BitVec 4)) (s t : State) : Prop where
  cfg : t.cfg = s.cfg
  e : ∀ j, j ∉ regs → readE j t = readE j s
  ctx : t.ctx = s.ctx
  commands : t.commands = s.commands
  resetIn : t.resetIn = s.resetIn
  resets : t.resets = s.resets
  history : s.history <+: t.history

theorem RunFrame.mono {regs regs' : List (BitVec 4)} {s t : State} (h : RunFrame regs s t) (hs : regs ⊆ regs') :
    RunFrame regs' s t :=
  ⟨h.cfg, fun j hj => h.e j fun hm => hj (hs hm), h.ctx, h.commands, h.resetIn, h.resets, h.history⟩

/-- Bus accesses before a run belong to its frame. -/
theorem RunFrame.after {regs : List (BitVec 4)} {s m t : State} (h : BusOnly s m) (k : RunFrame regs m t) :
    RunFrame regs s t :=
  ⟨k.cfg.trans h.cfg, fun j hj => (k.e j hj).trans (readE_congr h.e j), k.ctx.trans h.ctx,
   k.commands.trans h.commands, k.resetIn.trans h.resetIn, k.resets.trans h.resets, h.history.trans k.history⟩

/-- An answer touches neither the operand registers nor the bus. -/
theorem Stores.runFrame_respond {regs : List (BitVec 4)} {s t : State} (h : Stores regs s t) (st : Status) (v : Half) :
    RunFrame regs s (respond st v t) :=
  ⟨h.cfg, h.e, h.ctx, h.commands, h.resetIn, h.resets, h.history⟩

theorem runFrame_respond (regs : List (BitVec 4)) (st : Status) (v : Half) (s : State) :
    RunFrame regs s (respond st v s) := (Stores.refl regs s).runFrame_respond st v

theorem runFrame_waiting (regs : List (BitVec 4)) (c : TableCmd) (ph : WaitPhase) (k : Nat) (s : State) :
    RunFrame regs s { s with seq := .waiting c ph k } :=
  ⟨rfl, fun _ _ => rfl, rfl, rfl, rfl, rfl, List.prefix_rfl⟩

/-- A command's last piece and its answer write what the piece stores (60_exceptions.md R272). -/
theorem runFrame_finish {regs : List (BitVec 4)} {m : Bus Half} {s : State} (h : Stores regs s (m s).2) :
    RunFrame regs s (finish m s) := by
  rcases finish_cases m s with ⟨v, t, hm, e⟩ | ⟨st, t, hm, e⟩ <;> rw [hm] at h <;> rw [e]
  · exact h.runFrame_respond .ok v
  · exact h.runFrame_respond st 0

/-- A command that is one bus-only piece writes no operand register. -/
theorem BusPiece.runFrame {m : Bus Half} (h : BusPiece m) (regs : List (BitVec 4)) (s : State) :
    RunFrame regs s (finish m s) := runFrame_finish ((h s).stores regs)

/-! ## The table engine -/

/-- The operand registers a plan's results write. -/
def resultRegs (cfg : Config) (p : TablePlan) : List (BitVec 4) := p.results.flatMap fun r => usedRegs cfg r.2

/-- One poll of a Busy-Wait adds nothing to the frame of what it leads to (44_atu_engine.md R186). -/
theorem runFrame_tableWait {regs : List (BitVec 4)} {p : TablePlan} {f : State → State} {s : State}
    (hf : ∀ t, t.cfg = s.cfg → RunFrame regs t (f t)) (c : TableCmd) (ph : WaitPhase) (k : Nat) :
    RunFrame regs s (tableWait c ph k p f s) := by
  have hread := busPiece_smiRead p.dev p.opReg s
  rcases tableWait_cases c ph k p f s with ⟨st, t, h, e⟩ | ⟨v, t, h, -, e⟩ | ⟨v, t, h, -, -, e⟩ | ⟨v, t, h, -, -, e⟩ <;>
    rw [h] at hread <;> rw [e]
  · exact .after hread (runFrame_respond regs st 0 t)
  · exact .after hread (hf t hread.cfg)
  · exact .after hread (runFrame_respond regs .timeout 0 t)
  · exact .after hread (runFrame_waiting regs c ph (k + 1) t)

theorem runFrame_runPostWait (c : TableCmd) (k : Nat) (p : TablePlan) (s : State) :
    RunFrame (resultRegs s.cfg p) s (runPostWait c k p s) :=
  runFrame_tableWait (fun t ht => ht ▸ runFrame_finish (stores_tableResult p t)) c .post k

theorem runFrame_runCommit (c : TableCmd) (p : TablePlan) (s : State) :
    RunFrame (resultRegs s.cfg p) s (runCommit c p s) := by
  have hwrite := busPiece_writeAll p.dev (p.commit s) s
  rcases runCommit_cases c p s with ⟨st, t, h, e⟩ | ⟨t, h, -, -, e⟩ | ⟨t, h, -, e⟩ <;> rw [h] at hwrite <;> rw [e]
  · exact .after hwrite (runFrame_respond _ st 0 t)
  · exact .after hwrite (runFrame_respond _ .ok 0 t)
  · have hpost := runFrame_runPostWait c 0 p t
    rw [show t.cfg = s.cfg from hwrite.cfg] at hpost
    exact .after hwrite hpost

/-- The results of a table command are the registers it is said to write (44_atu_engine.md R190, R191, R200;
45_pvt_engine.md R222). -/
theorem resultRegs_subset (cfg : Config) (c : TableCmd) :
    resultRegs cfg (tablePlan cfg c) ⊆ writtenRegs cfg (latchedCommand c) := by
  cases c with
  | atuGetNext =>
    intro j
    simp only [resultRegs, tablePlan, planAtuGetNext, macResults, List.flatMap_cons, List.flatMap_nil, usedRegs,
      unpackedRegs, latchedCommand, writtenRegs, List.mem_append, List.mem_cons, List.not_mem_nil]
    tauto
  | atuSvcViol | pvtRead => exact List.Subset.refl _
  | atuFlushAll | atuFlushUnlocked | atuLoadPurge | atuFlushAllDb | atuFlushUnlockedDb | pvtWrite =>
    exact List.nil_subset _

/-- A step of a wait, and all it leads to. -/
theorem runFrame_resume (c : TableCmd) (ph : WaitPhase) (k : Nat) (s : State) :
    RunFrame (writtenRegs s.cfg (latchedCommand c)) s (resume c ph k s) := by
  refine RunFrame.mono ?_ (resultRegs_subset s.cfg c)
  cases ph with
  | pre => exact runFrame_tableWait (fun t ht => ht ▸ runFrame_runCommit c _ t) c .pre k
  | post => exact runFrame_runPostWait c k _ s

/-- A table command is the first poll of its first wait, after its context check if it has one (44_atu_engine.md R203;
40_operand_and_context.md R114). -/
theorem exec_latchedCommand (c : TableCmd) (s : State) :
    exec (latchedCommand c) s =
      .next (if needsContext c then requireContext (resume c .pre 0) s else resume c .pre 0 s) := by
  cases c <;> rfl

theorem runFrame_exec_latchedCommand {c : TableCmd} {s t : State} (h : exec (latchedCommand c) s = .next t) :
    RunFrame (writtenRegs s.cfg (latchedCommand c)) s t := by
  rw [exec_latchedCommand] at h
  cases h
  unfold requireContext
  repeat' split
  · exact runFrame_resume c .pre 0 s
  · exact runFrame_respond _ .fail 0 s
  · exact runFrame_resume c .pre 0 s

/-! ## The port-configuration commands -/

/-- A failing check only answers (46_port_config.md R235). -/
theorem runFrame_portChecks {regs : List (BitVec 4)} {run : State → State} {s : State} (h : RunFrame regs s (run s))
    (op : PortOp) (legal : Bool) : RunFrame regs s (portChecks op legal run s) := by
  rcases portChecks_cases op legal run s with ⟨-, e⟩ | ⟨-, -, e⟩ | ⟨-, -, -, e⟩ | ⟨-, -, -, e⟩ <;> rw [e]
  · exact runFrame_respond regs .fail 0 s
  · exact runFrame_respond regs .notSupported 0 s
  · exact runFrame_respond regs .badParameter 0 s
  · exact h

theorem runFrame_writeDescribed (regs : List (BitVec 4)) (d : FieldDesc) (port : BitVec 8) (v answer : Half)
    (s : State) : RunFrame regs s (writeDescribed d port v answer s) :=
  ((busPiece_writeField _ _ _ _ _).andThen fun _ => busPiece_give answer).runFrame regs s

theorem runFrame_restorePage (regs : List (BitVec 4)) (dev : Nat) (first : Status) (s : State) :
    RunFrame regs s (restorePage dev first s) := by
  rw [restorePage_eq]
  exact .after (busPiece_smiWrite _ _ _ s) (runFrame_respond regs _ 0 _)

theorem runFrame_powerSequence (regs : List (BitVec 4)) (dev : Nat) (v : Half) (s : State) :
    RunFrame regs s (powerSequence dev v s) := by
  have hpage := busPiece_smiWrite dev s.cfg.phy.pageReg s.cfg.phy.powerPage s
  rcases powerSequence_cases dev v s with ⟨st, t, h, e⟩ | ⟨t, h, e⟩ <;> rw [h] at hpage <;> rw [e]
  · exact .after hpage (runFrame_respond regs st 0 t)
  · exact .after (hpage.trans (busPiece_powerBits dev v _ t)) (runFrame_restorePage regs dev _ _)

/-! ## Every command -/

/-- Every command but CTX_INIT leaves the context, and the operand registers that are no results of it. -/
theorem runFrame_exec {i : Instr} (hi : i ≠ .ctxInit) {s t : State} (h : exec i s = .next t) :
    RunFrame (writtenRegs s.cfg i) s t := by
  cases i with
  | lde n imm => cases h; exact (stores_writeE n imm s).runFrame_respond .ok 0
  | rde n => cases h; exact runFrame_respond _ _ _ s
  | ctxInit => exact absurd rfl hi
  | ctxRd n =>
    obtain ⟨st, v, hv⟩ := exists_exec_ctxRd n s
    rw [hv s rfl] at h
    cases h
    exact runFrame_respond _ st v s
  | smiRd | regRd => cases h; exact (busPiece_smiRead _ _).runFrame _ s
  | smiWr | regWr => cases h; exact ((busPiece_smiWrite _ _ _).andThen fun _ => busPiece_give 0).runFrame _ s
  | smiFldWr | regFldWr =>
    cases h; exact ((busPiece_writeField _ _ _ _ _).andThen fun _ => busPiece_give 0).runFrame _ s
  | atuFlushAll => exact runFrame_exec_latchedCommand (c := .atuFlushAll) h
  | atuFlushUnlocked => exact runFrame_exec_latchedCommand (c := .atuFlushUnlocked) h
  | atuLoadPurge => exact runFrame_exec_latchedCommand (c := .atuLoadPurge) h
  | atuGetNext => exact runFrame_exec_latchedCommand (c := .atuGetNext) h
  | atuFlushAllDb => exact runFrame_exec_latchedCommand (c := .atuFlushAllDb) h
  | atuFlushUnlockedDb => exact runFrame_exec_latchedCommand (c := .atuFlushUnlockedDb) h
  | atuSvcViol => exact runFrame_exec_latchedCommand (c := .atuSvcViol) h
  | pvtWrite => exact runFrame_exec_latchedCommand (c := .pvtWrite) h
  | pvtRead => exact runFrame_exec_latchedCommand (c := .pvtRead) h
  | portState | portFrameMode | portVlanMembers | portHeaderMode | pcsForceSpeed | pcsForceDuplex | pcsForceFc
  | pcsForceLink | portJumbo => cases h; exact runFrame_portChecks (runFrame_writeDescribed _ _ _ _ _ s) _ _
  | phyPower => cases h; exact runFrame_portChecks (runFrame_powerSequence _ _ _ s) _ _

/-- CTX_INIT changes the context and answers (40_operand_and_context.md R112). -/
theorem runFrame_exec_ctxInit {s t : State} (h : exec .ctxInit s = .next t) :
    RunFrame (writtenRegs s.cfg .ctxInit) { s with ctx := t.ctx } t := by
  obtain ⟨st, ctx, hctx⟩ := exists_exec_ctxInit s
  rw [hctx s rfl rfl rfl] at h
  cases h
  exact runFrame_respond _ st 0 { s with ctx := ctx }

/-- A supported CTX_INIT builds its context from the operand registers (40_operand_and_context.md R112). -/
theorem exec_ctxInit_of_supported {s : State} (h : readE 0 s ∈ s.cfg.supportedIds) :
    exec .ctxInit s = .next (respond .ok 0 { s with ctx := contextFromOperands s }) := by
  have hmem : s.cfg.supportedIds.contains (readE 0 s) = true := by simpa using h
  simp only [exec, execCtxInit, hmem, if_true]

/-- Settles O54, from the frames, and because the operand registers alone make the new context. -/
theorem contextWrittenByCtxInitOnly : Obligations.ContextWrittenByCtxInitOnly := by
  refine ⟨fun s t i h hi => (runFrame_exec hi h).ctx, fun s c ph k => (runFrame_resume c ph k s).ctx, ?_⟩
  intro s t ctx hsup h
  have hnew := exec_ctxInit_of_supported (s := { s with ctx := ctx }) hsup
  rw [exec_ctxInit_of_supported hsup, ← h, hnew]
  rfl

/-- Settles O55, from the frames; CTX_INIT's starts from the state with its new context, whose operand registers are the
old ones. -/
theorem operandRegistersFrame : Obligations.OperandRegistersFrame := by
  refine ⟨fun s t i j h hj => ?_, fun s c ph k j hj => (runFrame_resume c ph k s).e j hj⟩
  by_cases hi : i = .ctxInit
  · subst hi
    exact (runFrame_exec_ctxInit h).e j hj
  · exact (runFrame_exec hi h).e j hj

end Sys2Proof.Machine

/-! PROOFS. Reset, an idle block, and the reset input (10_state.md R34; 70_reset_and_hazards.md R295, R296). -/

namespace Sys2Proof.Machine

/-- The state after reset is all that R34 leaves, and the invariant asks nothing more of it. -/
theorem inv_reset : Inv State.reset where
  context_supported := nofun
  response_sound := nofun
  wait_sound := nofun
  run_sound := nofun
  history_clean := nofun
  cells := cellsCanonical_reset

/-- Settles O53: CFG0's own constraints, and the reset state field by field. -/
theorem invariantHoldsAtReset : Obligations.InvariantHoldsAtReset := ⟨cfg0_wf, inv_reset⟩

/-- With nothing presented the block stays in IDLE (10_state.md R34). -/
theorem advance_of_quiet {s : State} (h : s.seq = .idle) (hc : s.commands = []) : advance s = .next s := by
  simp [advance, h, hc]

/-- Settles O8: the reset state by its fields, and an idle block's step because `advance` has nothing to do. -/
theorem resetLeavesAnIdleBlockThatWaits : Obligations.ResetLeavesAnIdleBlockThatWaits := by
  refine ⟨rfl, rfl, rfl, rfl, rfl, fun s hseq hc hr => ?_⟩
  rw [step, underReset_of_none hr, advance_of_quiet hseq hc]

/-- Settles O9: a reset due now, or on a quiet block, is `resetBlock`. -/
theorem resetInputResetsAtOnce : Obligations.ResetInputResetsAtOnce := by
  intro s n hr hnow
  have hnow' : n = 0 ∨ isQuiet s = true := hnow.imp_right fun ⟨hseq, hc⟩ => by simp [isQuiet, hseq, hc]
  refine ⟨resetBlock s, ?_, by simp⟩
  rw [step, underReset_of_now hr hnow']

end Sys2Proof.Machine

/-! PROOFS. A control word has its busy and read-valid bits clear (00_scope.md R7; 41_bus_transport.md R135). -/

namespace Sys2Proof.Machine

/-- Bit `b` of CTRL is no bit of a control word: above the data, outside both address fields and both opcodes. -/
structure StatusBit (c : BusCfg) (b : Nat) : Prop where
  high : 16 ≤ b
  dev : b < c.devShift ∨ c.devShift + 5 ≤ b
  reg : b < c.regShift ∨ c.regShift + 5 ≤ b
  opc : (c.opcRead ||| c.opcWrite).getLsbD b = false

theorem statusBit_busy {c : BusCfg} (h : c.WF) : StatusBit c c.busyBit := ⟨h.busy_low, h.busy_dev, h.busy_reg, h.opc_busy⟩

theorem statusBit_rvalid {c : BusCfg} (h : c.WF) : StatusBit c c.rvalidBit :=
  ⟨h.rvalid_low, h.rvalid_dev, h.rvalid_reg, h.opc_rvalid⟩

theorem StatusBit.opcodes {c : BusCfg} {b : Nat} (h : StatusBit c b) :
    c.opcRead.getLsbD b = false ∧ c.opcWrite.getLsbD b = false := by
  simpa using h.opc

/-- A five-bit field has no bit outside its place. -/
theorem getLsbD_shiftedField {x k b : Nat} (hx : x < 32) (hb : b < k ∨ k + 5 ≤ b) :
    (BitVec.ofNat 32 (x <<< k)).getLsbD b = false := by
  rw [BitVec.getLsbD_ofNat, Nat.testBit_shiftLeft]
  rcases hb with hb | hb
  · simp [Nat.not_le.2 hb]
  · have hsmall : x < 2 ^ (b - k) :=
      calc x < 2 ^ 5 := hx
        _ ≤ 2 ^ (b - k) := Nat.pow_le_pow_right Nat.two_pos (by omega)
    simp [Nat.testBit_lt_two_pow hsmall]

section ControlWord
variable {cfg : Config} {dev b : Nat}

theorem getLsbD_addressFields (h : StatusBit cfg.bus b) (hdev : dev < 32) (reg : RegNum) :
    (addressFields cfg dev reg).getLsbD b = false := by
  rw [addressFields, BitVec.getLsbD_or, getLsbD_shiftedField hdev h.dev, getLsbD_shiftedField reg.isLt h.reg]
  rfl

theorem getLsbD_cwRead (h : StatusBit cfg.bus b) (hdev : dev < 32) (reg : RegNum) :
    (cwRead cfg dev reg).getLsbD b = false := by
  rw [cwRead, BitVec.getLsbD_or, getLsbD_addressFields h hdev, h.opcodes.1]
  rfl

theorem getLsbD_cwWrite (h : StatusBit cfg.bus b) (hdev : dev < 32) (reg : RegNum) (v : Half) :
    (cwWrite cfg dev reg v).getLsbD b = false := by
  have hdata : (v.setWidth 32).getLsbD b = false := by simp [BitVec.getLsbD_of_ge v b h.high]
  rw [cwWrite, BitVec.getLsbD_or, BitVec.getLsbD_or, getLsbD_addressFields h hdev, h.opcodes.2, hdata]
  rfl

/-- The control word of an operation that passed its address check (41_bus_transport.md R131, R135). -/
theorem cleanControlWord_cwRead (h : cfg.bus.WF) (ha : addressLegal cfg dev = true) (reg : RegNum) :
    CleanControlWord cfg (cwRead cfg dev reg) := by
  have hdev : dev < 32 := by simpa [addressLegal_eq h] using ha
  exact ⟨getLsbD_cwRead (statusBit_busy h) hdev reg, getLsbD_cwRead (statusBit_rvalid h) hdev reg⟩

theorem cleanControlWord_cwWrite (h : cfg.bus.WF) (ha : addressLegal cfg dev = true) (reg : RegNum) (v : Half) :
    CleanControlWord cfg (cwWrite cfg dev reg v) := by
  have hdev : dev < 32 := by simpa [addressLegal_eq h] using ha
  exact ⟨getLsbD_cwWrite (statusBit_busy h) hdev reg v, getLsbD_cwWrite (statusBit_rvalid h) hdev reg v⟩

end ControlWord

end Sys2Proof.Machine

/-! PROOFS. The invariant is kept by every step (10_state.md R25, R29, R31; 41_bus_transport.md R135; 44_atu_engine.md
R186, R203): shown for the sequencer's steps, which make up the machine's. -/

namespace Sys2Proof.Machine

/-! ## What a command may have left to run -/

/-- Under the configuration and the context a table command may be in this wait: R185 has the wait, and R203's check
has passed. -/
def MayWait (cfg : Config) (ctx : Context) (c : TableCmd) (ph : WaitPhase) : Prop :=
  (ph = .post → (tablePlan cfg c).readStyle = true ∨ cfg.postWaitAll = true) ∧
  (needsContext c = true → ctx.valid = true)

/-- What `SoundRun` asks of a task still to run. -/
def SoundTask (cfg : Config) (ctx : Context) : Task → Prop
  | .test c ph _ => MayWait cfg ctx c ph
  | .run i => accessFree i = true
  | _ => True

/-- It holds of every task of a list. -/
def SoundTasks (cfg : Config) (ctx : Context) (ts : List Task) : Prop := ∀ t ∈ ts, SoundTask cfg ctx t

/-- What `SoundRun` asks of the command itself. -/
structure SoundWork (cfg : Config) (ctx : Context) (w : Work) : Prop where
  checked : ∀ tr, w.trans = some tr → addressLegal cfg tr.op.device = true
  counting : Counting w
  tasks : SoundTasks cfg ctx w.todo

/-- A command that makes no access is latched whole (10_state.md R31). -/
theorem workOf_of_accessFree {i : Instr} (h : accessFree i = true) (s : State) : workOf i s = begun [.run i] := by
  cases i with
  | lde | rde | ctxInit | ctxRd => rfl
  | _ => cases h

theorem SoundWork.soundRun {s : State} {w : Work} (h : SoundWork s.cfg s.ctx w) (hs : s.response = none) :
    SoundRun s w where
  silent := hs
  checked := h.checked
  counting := h.counting
  polls := fun c ph k hm => h.tasks (.test c ph k) hm
  whole := fun i hm => workOf_of_accessFree (h.tasks (.run i) hm) s

theorem SoundRun.soundWork {s : State} {w : Work} (h : SoundRun s w) : SoundWork s.cfg s.ctx w where
  checked := h.checked
  counting := h.counting
  tasks := fun t ht => by
    cases t with
    | test c ph k => exact h.polls c ph k ht
    | run i => exact accessFree_of_workOf (h.whole i ht)
    | _ => trivial

section Tasks
variable {cfg : Config} {ctx : Context}

theorem SoundTasks.subset {ts ts' : List Task} (h : SoundTasks cfg ctx ts) (hs : ts' ⊆ ts) : SoundTasks cfg ctx ts' :=
  fun t ht => h t (hs ht)

theorem SoundTasks.append {ts ts' : List Task} (h : SoundTasks cfg ctx ts) (h' : SoundTasks cfg ctx ts') :
    SoundTasks cfg ctx (ts ++ ts') := fun t ht => (List.mem_append.1 ht).elim (h t) (h' t)

theorem soundTasks_answer (v : Half) : SoundTasks cfg ctx [.answer v] := by
  simp [SoundTasks, SoundTask]

theorem soundTasks_run {i : Instr} (h : accessFree i = true) : SoundTasks cfg ctx [.run i] := by
  simp [SoundTasks, SoundTask, h]

/-- What a failure leaves to run was there before, but for the answer. -/
theorem SoundTasks.afterFailure {ts : List Task} (h : SoundTasks cfg ctx ts) :
    SoundTasks cfg ctx (afterFailure ts) := by
  intro t ht
  rcases mem_afterFailure ht with rfl | ht
  · trivial
  · exact h t ht

theorem soundTasks_pollTasks {c : TableCmd} {ph : WaitPhase} (h : MayWait cfg ctx c ph) (k : Nat) :
    SoundTasks cfg ctx (pollTasks cfg c ph k) := by
  simp [SoundTasks, SoundTask, pollTasks, h]

/-- The second wait is polled only where R185 has it. -/
theorem soundTasks_commitTasks {c : TableCmd} {ph : WaitPhase} {s : State} (h : MayWait s.cfg s.ctx c ph) :
    SoundTasks s.cfg s.ctx (commitTasks c s) := by
  refine .append (fun t ht => ?_) ?_
  · obtain ⟨w, -, rfl⟩ := List.mem_map.1 ht
    trivial
  split
  · next hpost => exact soundTasks_pollTasks ⟨fun _ => by simpa using hpost, h.2⟩ 0
  · exact soundTasks_answer 0

theorem soundTasks_resultTasks (c : TableCmd) : SoundTasks cfg ctx (resultTasks cfg c) := by
  refine .append (fun t ht => ?_) (fun t ht => ?_)
  · obtain ⟨r, -, ht⟩ := List.mem_flatMap.1 ht
    rcases List.mem_pair.1 ht with rfl | rfl <;> trivial
  · rw [List.mem_singleton.1 ht]
    cases (tablePlan cfg c).answer <;> trivial

theorem soundTasks_pageTasks (dev : Nat) (v : Half) : SoundTasks cfg ctx (pageTasks cfg dev v) := by
  refine .append (fun t ht => ?_) (by simp [SoundTasks, SoundTask])
  obtain ⟨b, -, ht⟩ := List.mem_flatMap.1 ht
  rcases List.mem_pair.1 ht with rfl | rfl <;> trivial

/-! ## A command accepted -/

theorem soundWork_begun {ts : List Task} (h : SoundTasks cfg ctx ts) : SoundWork cfg ctx (begun ts) :=
  ⟨nofun, nofun, h⟩

theorem soundWork_turnedAway (st : Status) : SoundWork cfg ctx (turnedAway st) :=
  ⟨nofun, nofun, soundTasks_answer 0⟩

theorem soundWork_checkedWork (st : Status) {ts : List Task} (h : SoundTasks cfg ctx ts) :
    SoundWork cfg ctx (checkedWork st ts) := by
  cases st with
  | ok => exact soundWork_begun h
  | fail | invalidAddress | timeout | badParameter | notSupported => exact soundWork_turnedAway _

/-- A table command polls only once its context check has passed (44_atu_engine.md R203). -/
theorem soundWork_tableWork (c : TableCmd) (s : State) : SoundWork s.cfg s.ctx (tableWork c s) := by
  unfold tableWork
  split
  · exact soundWork_turnedAway .fail
  · next hcheck =>
    have hmay : MayWait s.cfg s.ctx c .pre := ⟨nofun, by simpa using hcheck⟩
    exact soundWork_begun (soundTasks_pollTasks hmay 0)

theorem soundTasks_describedTasks (d : FieldDesc) (port : BitVec 8) (v answer : Half) :
    SoundTasks cfg ctx (describedTasks cfg d port v answer) := by
  simp [SoundTasks, SoundTask, describedTasks]

theorem soundWork_fieldWork (op : PortOp) (d : FieldDesc) (port : BitVec 8) (v : Half) (s : State) :
    SoundWork s.cfg s.ctx (fieldWork op d port v s) :=
  soundWork_checkedWork _ (soundTasks_describedTasks d port v 0)

/-- What a command word has to run once it is accepted (10_state.md R31). -/
theorem soundWork_workOf (i : Instr) (s : State) : SoundWork s.cfg s.ctx (workOf i s) := by
  cases i with
  | lde | rde | ctxInit | ctxRd => exact soundWork_begun (soundTasks_run rfl)
  | smiRd | smiWr | smiFldWr | regRd | regWr | regFldWr => exact soundWork_begun (by simp [SoundTasks, SoundTask])
  | atuFlushAll | atuFlushUnlocked | atuLoadPurge | atuGetNext | atuFlushAllDb | atuFlushUnlockedDb | atuSvcViol
  | pvtWrite | pvtRead => exact soundWork_tableWork _ s
  | portState | portFrameMode | portVlanMembers | portHeaderMode | pcsForceSpeed | pcsForceDuplex | pcsForceFc
  | pcsForceLink => exact soundWork_fieldWork _ _ _ _ s
  | portJumbo => exact soundWork_checkedWork _ (soundTasks_describedTasks _ _ _ _)
  | phyPower => exact soundWork_checkedWork _ (by simp [SoundTasks, SoundTask])

/-! ## A command between two of its accesses -/

section Work
variable {w : Work}

theorem SoundWork.withTodo (h : SoundWork cfg ctx w) {ts : List Task} (hts : SoundTasks cfg ctx ts) :
    SoundWork cfg ctx { w with todo := ts } := ⟨h.checked, h.counting, hts⟩

theorem SoundWork.failed (h : SoundWork cfg ctx w) (st : Status) : SoundWork cfg ctx (w.failed st) :=
  ⟨nofun, nofun, h.tasks.afterFailure⟩

/-- The operation in flight is over. -/
theorem SoundWork.landed (h : SoundWork cfg ctx w) (v : Half) :
    SoundWork cfg ctx { w with trans := none, last := v } := ⟨nofun, nofun, h.tasks⟩

/-- The operation in flight enters a phase with an access to make. -/
theorem SoundWork.inPhase (h : SoundWork cfg ctx w) {tr : Transaction} (htr : w.trans = some tr) {ph : TransportPhase}
    (hph : ph ≠ .busy 0 ∧ ph ≠ .rvalid 0) : SoundWork cfg ctx { w with trans := some { tr with phase := ph } } := by
  refine ⟨?_, ?_, h.tasks⟩
  · rintro _ ⟨⟩
    exact h.checked tr htr
  · rintro _ ⟨⟩
    exact hph

/-- What opens has passed its address check (41_bus_transport.md R131). -/
theorem SoundWork.openNext (h : SoundWork cfg ctx w) (hmax : 1 ≤ cfg.bus.busyPollMax) :
    SoundWork cfg ctx (openNext cfg w) := by
  refine ⟨?_, counting_openNext hmax h.counting, ?_⟩ <;>
  rcases openNext_cases cfg w with e | ⟨t, rest, op, -, ht, -, ha, e⟩ | ⟨t, rest, op, -, ht, -, -, e⟩ <;> rw [e]
  · exact h.checked
  · rintro _ ⟨⟩
    exact ha
  · exact nofun
  · exact h.tasks
  · exact h.tasks.subset (ht ▸ List.subset_cons_self t rest)
  · exact (h.tasks.subset (ht ▸ List.subset_cons_self t rest)).afterFailure

end Work
end Tasks

/-! ## The invariant but for the sequencer -/

/-- What the invariant says of everything but the sequencer. -/
structure InvAside (s : State) : Prop where
  context_supported : s.ctx.valid = true → s.ctx.deviceId ∈ s.cfg.supportedIds
  response_sound : ∀ rw, s.response = some rw → SoundResponse rw
  history_clean : ∀ w, .writeCtrl w ∈ s.history → CleanControlWord s.cfg w
  cells : cellsCanonical s.env

section
variable {s t : State}

theorem Inv.aside (h : Inv s) : InvAside s := ⟨h.context_supported, h.response_sound, h.history_clean, h.cells⟩

theorem InvAside.inv_of_idle (h : InvAside s) (hs : s.seq = .idle) : Inv s where
  context_supported := h.context_supported
  response_sound := h.response_sound
  wait_sound := by simp [hs]
  run_sound := by simp [hs]
  history_clean := h.history_clean
  cells := h.cells

theorem InvAside.of_inside (h : InvAside s) (k : Inside s t) : InvAside t where
  context_supported := by rw [k.ctx, k.cfg]; exact h.context_supported
  response_sound := by rw [k.response]; exact h.response_sound
  history_clean := by rw [k.history, k.cfg]; exact h.history_clean
  cells := by rw [k.env]; exact h.cells

/-- One access keeps it, if a control word written is clean and the cells stay in canonical form. -/
theorem InvAside.access (h : InvAside s) (k : BusOnly s t) {ev : BusEvent} (hev : t.history = s.history ++ [ev])
    (hclean : ∀ w, ev = .writeCtrl w → CleanControlWord s.cfg w) (hcells : cellsCanonical t.env) : InvAside t where
  context_supported := by rw [k.ctx, k.cfg]; exact h.context_supported
  response_sound := by rw [k.response]; exact h.response_sound
  history_clean := fun w hw => by
    rw [hev, List.mem_append, List.mem_singleton] at hw
    rw [k.cfg]
    exact hw.elim (h.history_clean w) fun hw => hclean w hw.symm
  cells := hcells

theorem cellsCanonical_memReadCtrl (h : cellsCanonical s.env) : cellsCanonical (memReadCtrl s).2.env := by
  unfold memReadCtrl
  split
  · trivial
  · exact h
  · exact h

theorem cellsCanonical_memReadData (h : cellsCanonical s.env) : cellsCanonical (memReadData s).2.env := by
  unfold memReadData
  split
  · trivial
  · exact h
  · exact h

theorem InvAside.readCtrl (h : InvAside s) : InvAside (memReadCtrl s).2 :=
  h.access (busOnly_memReadCtrl s) (memReadCtrl_history s) nofun (cellsCanonical_memReadCtrl h.cells)

theorem InvAside.readData (h : InvAside s) : InvAside (memReadData s).2 :=
  h.access (busOnly_memReadData s) (memReadData_history s) nofun (cellsCanonical_memReadData h.cells)

theorem InvAside.writeCtrl (h : InvAside s) {w : Word} (hw : CleanControlWord s.cfg w) :
    InvAside (memWriteCtrl w s) :=
  h.access (busOnly_memWriteCtrl w s) rfl (by rintro _ ⟨⟩; exact hw) (cellsCanonical_absorb s.cfg w h.cells)

/-- An answer with value 0 unless it is Ok (30_encoding.md R86). -/
theorem InvAside.inv_respond (h : InvAside s) {st : Status} {v : Half} (hv : st ≠ .ok → v = 0) :
    Inv (respond st v s) := by
  refine InvAside.inv_of_idle ⟨h.context_supported, ?_, h.history_clean, h.cells⟩ rfl
  rintro _ ⟨⟩
  exact ⟨st, v, rfl, hv⟩

/-- `t` is a state a reset leaves of `s`, in all the invariant speaks of (10_state.md R34). -/
structure ResetFrom (s t : State) : Prop where
  cfg : t.cfg = s.cfg
  invalid : t.ctx.valid = false
  seq : t.seq = .idle
  response : t.response = none
  history : t.history = s.history
  env : t.env = s.env

theorem resetFrom_resetBlock (s : State) : ResetFrom s (resetBlock s) := by
  constructor <;> simp

theorem ResetFrom.withCommands (h : ResetFrom s t) (cs : List Command) : ResetFrom s { t with commands := cs } :=
  ⟨h.cfg, h.invalid, h.seq, h.response, h.history, h.env⟩

/-- A reset leaves a state that meets the invariant, whatever was in progress. -/
theorem InvAside.inv_of_reset (h : InvAside s) (k : ResetFrom s t) : Inv t := by
  refine InvAside.inv_of_idle ⟨?_, ?_, ?_, ?_⟩ k.seq
  · simp [k.invalid]
  · simp [k.response]
  · rw [k.history, k.cfg]; exact h.history_clean
  · rw [k.env]; exact h.cells

end

/-! ## The sequencer's steps -/

/-- The command `w` may go on from `s`. -/
structure Carries (w : Work) (s : State) : Prop where
  aside : InvAside s
  silent : s.response = none
  work : SoundWork s.cfg s.ctx w

section
variable {w : Work} {s t : State}

theorem Carries.inv (h : Carries w s) : Inv (runningAt w s) where
  context_supported := h.aside.context_supported
  response_sound := h.aside.response_sound
  wait_sound := nofun
  run_sound := by
    rintro _ ⟨⟩
    exact SoundWork.soundRun h.work h.silent
  history_clean := h.aside.history_clean
  cells := h.aside.cells

theorem Carries.of_running (h : Inv s) (hs : s.seq = .running w) : Carries w s :=
  ⟨h.aside, (h.run_sound w hs).silent, (h.run_sound w hs).soundWork⟩

theorem Carries.withWork {w' : Work} (h : Carries w s) (hw : SoundWork s.cfg s.ctx w') : Carries w' s :=
  ⟨h.aside, h.silent, hw⟩

theorem Carries.failed (h : Carries w s) (st : Status) : Carries (w.failed st) s := h.withWork (h.work.failed st)

theorem Carries.inside (h : Carries w s) (k : Inside s t) : Carries w t :=
  ⟨h.aside.of_inside k, k.response.trans h.silent, by rw [k.cfg, k.ctx]; exact h.work⟩

theorem Carries.busOnly (h : Carries w s) (k : BusOnly s t) (ht : InvAside t) : Carries w t :=
  ⟨ht, k.response.trans h.silent, by rw [k.cfg, k.ctx]; exact h.work⟩

theorem Carries.readCtrl (h : Carries w s) : Carries w (memReadCtrl s).2 :=
  h.busOnly (busOnly_memReadCtrl s) h.aside.readCtrl

theorem Carries.readData (h : Carries w s) : Carries w (memReadData s).2 :=
  h.busOnly (busOnly_memReadData s) h.aside.readData

theorem Carries.writeCtrl (h : Carries w s) {x : Word} (hx : CleanControlWord s.cfg x) :
    Carries w (memWriteCtrl x s) := h.busOnly (busOnly_memWriteCtrl x s) (h.aside.writeCtrl hx)

/-- A busy poll below the bound leaves a wait the sequencer may be in (44_atu_engine.md R186). -/
theorem Carries.inv_waiting (h : Carries w s) {c : TableCmd} {ph : WaitPhase} {k : Nat}
    (hmay : MayWait s.cfg s.ctx c ph) (hk : waitExhausted s.cfg (k + 1) = false) :
    Inv { s with seq := .waiting c ph (k + 1) } where
  context_supported := h.aside.context_supported
  response_sound := h.aside.response_sound
  wait_sound := by
    rintro _ _ _ ⟨⟩
    exact ⟨Nat.le_add_left 1 k, hk, hmay.1, hmay.2, h.silent⟩
  run_sound := nofun
  history_clean := h.aside.history_clean
  cells := h.aside.cells

/-- What an operation leads to (44_atu_engine.md R186, R202; 46_port_config.md R249). -/
theorem Carries.inv_proceed (h : Carries w s) : Inv (proceed w s) := by
  unfold proceed
  split
  · next u rest htodo =>
    have hrest : SoundTasks s.cfg s.ctx rest := h.work.tasks.subset (htodo ▸ List.subset_cons_self _ rest)
    have hused : Carries { w with todo := rest } (useResult u w.last s) :=
      (h.withWork (h.work.withTodo hrest)).inside (inside_useResult u w.last s)
    refine (hused.withWork (hused.work.withTodo ?_)).inv
    split
    · exact hused.work.tasks.subset (List.dropWhile_sublist _).subset
    · exact hused.work.tasks
  · next c ph k rest htodo =>
    have hmay : MayWait s.cfg s.ctx c ph := h.work.tasks (.test c ph k) (by simp [htodo])
    split
    · split
      · exact (h.failed .timeout).inv
      · next hk => exact h.inv_waiting hmay (by simpa using hk)
    · cases ph with
      | pre => exact (h.withWork (h.work.withTodo (soundTasks_commitTasks hmay))).inv
      | post => exact (h.withWork (h.work.withTodo (soundTasks_resultTasks c))).inv
  · next dev v rest htodo => exact (h.withWork (h.work.withTodo (soundTasks_pageTasks dev v))).inv
  · exact h.inv

/-- One access of a Bus Transaction that passed its address check (41_bus_transport.md R132 to R137). -/
theorem Carries.inv_makeAccess (h : Carries w s) (hwf : s.cfg.bus.WF) {tr : Transaction} (htr : w.trans = some tr) :
    Inv (makeAccess tr w s) := by
  have hphase {ph : TransportPhase} (hph : ph ≠ .busy 0 ∧ ph ≠ .rvalid 0) :
      Carries { w with trans := some { tr with phase := ph } } s := h.withWork (h.work.inPhase htr hph)
  have hlegal : addressLegal s.cfg tr.op.device = true := h.work.checked tr htr
  unfold makeAccess
  split
  case h_1 | h_4 => exact (h.failed .timeout).inv
  case h_2 n _ =>
    split
    · split
      · exact (h.failed .timeout).readCtrl.inv
      · next hn => exact (hphase (by simpa using hn)).readCtrl.inv
    · exact (hphase (by simp)).readCtrl.inv
  case h_3 =>
    split
    · next dev reg hop =>
      have hvalid : s.cfg.bus.rvalidPollMax ≠ 0 := Nat.ne_of_gt (Nat.zero_lt_of_lt hwf.rvalidPoll_larger)
      rw [hop] at hlegal
      exact ((hphase (by simpa using hvalid)).writeCtrl (cleanControlWord_cwRead hwf hlegal reg)).inv
    · next dev reg v hop =>
      rw [hop] at hlegal
      exact ((h.withWork (h.work.landed w.last)).writeCtrl (cleanControlWord_cwWrite hwf hlegal reg v)).inv_proceed
  case h_5 m _ =>
    split
    · exact (hphase (by simp)).readCtrl.inv
    · split
      · exact (h.failed .timeout).readCtrl.inv
      · next hm => exact (hphase (by simpa using hm)).readCtrl.inv
  case h_6 => exact (h.withWork (h.work.landed _)).readData.inv_proceed

/-- The commands that make no access (40_operand_and_context.md R110 to R113). -/
theorem InvAside.inv_exec_of_accessFree (h : InvAside s) {i : Instr} (hi : accessFree i = true)
    (hx : exec i s = .next t) : Inv t := by
  cases i with
  | lde n imm => cases hx; exact (h.of_inside (inside_writeE n imm s)).inv_respond (by simp)
  | rde n => cases hx; exact h.inv_respond (by simp)
  | ctxInit =>
    cases hx
    split
    · next hsup =>
      have hmem : readE 0 s ∈ s.cfg.supportedIds := by simpa using hsup
      have hctx : InvAside { s with ctx := contextFromOperands s } :=
        ⟨fun _ => hmem, h.response_sound, h.history_clean, h.cells⟩
      exact hctx.inv_respond (by simp)
    · have hctx : InvAside { s with ctx := { s.ctx with valid := false } } :=
        ⟨nofun, h.response_sound, h.history_clean, h.cells⟩
      exact hctx.inv_respond fun _ => rfl
  | ctxRd n =>
    simp only [exec, execCtxRd] at hx
    split at hx
    · cases hx; exact h.inv_respond fun _ => rfl
    · split at hx
      · cases hx; exact h.inv_respond (by simp)
      · split at hx <;> cases hx
        · exact h.inv_respond (by simp)
        · exact h.inv_respond fun _ => rfl
  | _ => cases hi

/-- The delivery of a response (30_encoding.md R86). -/
theorem Carries.inv_deliver (h : Carries w s) (hd : deliver w s = .next t) : Inv t := by
  unfold deliver at hd
  split at hd
  · next i rest htodo => exact h.aside.inv_exec_of_accessFree (h.work.tasks (.run i) (by simp [htodo])) hd
  all_goals
    cases hd
    exact h.aside.inv_respond fun hst => by simp [hst]

theorem Carries.inv_continueWork (h : Carries w s) (hwf : s.cfg.bus.WF) (hc : continueWork w s = .next t) : Inv t := by
  have hmax := hwf.busyPoll_pos
  have hopen : Carries (openNext s.cfg (openNext s.cfg w)) s := h.withWork ((h.work.openNext hmax).openNext hmax)
  unfold continueWork at hc
  split at hc
  · next tr htr =>
    cases hc
    exact hopen.inv_makeAccess hwf htr
  · exact hopen.inv_deliver hc

/-- An acceptance: what the word has to run is sound, and the last response is gone (log 7). -/
theorem inv_acceptWord (h : InvAside s) (x : Command) (rest : List Command) :
    Inv (acceptWord x (acceptCommand rest s)) := by
  have haside : InvAside (acceptCommand rest s) := ⟨h.context_supported, nofun, h.history_clean, h.cells⟩
  unfold acceptWord
  split
  · next i hd => exact Carries.inv ⟨haside, rfl, soundWork_workOf i _⟩
  · exact Carries.inv ⟨haside, rfl, soundWork_turnedAway .badParameter⟩

/-- The sequencer's step while no reset is asserted keeps the invariant. -/
theorem inv_advanceOne (hwf : s.cfg.bus.WF) (h : Inv s) (ht : advanceOne s = .next t) : Inv t := by
  cases hseq : s.seq with
  | idle =>
    cases hc : s.commands with
    | nil =>
      rw [advanceOne_of_quiet hseq hc] at ht
      cases ht
      exact h
    | cons x rest =>
      rw [advanceOne_of_word hseq hc] at ht
      cases ht
      exact inv_acceptWord h.aside x rest
  | waiting c ph k =>
    obtain ⟨-, -, hpost, hvalid, hnone⟩ := h.wait_sound c ph k hseq
    rw [advanceOne_of_waiting hseq] at ht
    have hcarry : Carries (begun (pollTasks s.cfg c ph k)) s :=
      ⟨h.aside, hnone, soundWork_begun (soundTasks_pollTasks ⟨hpost, hvalid⟩ k)⟩
    exact hcarry.inv_continueWork hwf ht
  | running w =>
    rw [advanceOne_of_running hseq] at ht
    exact (Carries.of_running h hseq).inv_continueWork hwf ht

end

/-! ## No step changes the configuration -/

theorem busOnly_replayAccess (s : State) (ev : BusEvent) : BusOnly s (replayAccess s ev) := by
  cases ev with
  | readCtrl _ => exact busOnly_memReadCtrl s
  | writeCtrl w => exact busOnly_memWriteCtrl w s
  | readData _ => exact busOnly_memReadData s

theorem OneAccess.cfg {s t : State} (h : OneAccess s t) : t.cfg = s.cfg := by
  rcases h with h | ⟨ev, -, h⟩
  · exact h.cfg
  · exact h.cfg.trans (busOnly_replayAccess s ev).cfg

theorem exec_cfg {i : Instr} {s t : State} (h : exec i s = .next t) : t.cfg = s.cfg := by
  by_cases hi : i = .ctxInit
  · subst hi
    exact (runFrame_exec_ctxInit h).cfg
  · exact (runFrame_exec hi h).cfg

theorem continueWork_cfg {w : Work} {s t : State} (h : continueWork w s = .next t) : t.cfg = s.cfg := by
  unfold continueWork at h
  split at h
  · cases h
    exact (oneAccess_makeAccess _ _ s).cfg
  · unfold deliver at h
    split at h
    · exact exec_cfg h
    all_goals cases h; rfl

theorem advanceOne_cfg {s t : State} (h : advanceOne s = .next t) : t.cfg = s.cfg := by
  unfold advanceOne at h
  split at h
  · exact continueWork_cfg h
  · exact continueWork_cfg h
  · cases h; rfl
  · next w rest _ _ =>
    obtain ⟨work, hacc⟩ := acceptWord_eq w (acceptCommand rest s)
    rw [hacc] at h
    cases h
    rfl

/-! ## The reset input -/

/-- The accesses a reset keeps are made again with clean control words (70_reset_and_hazards.md R296). -/
theorem invAside_foldl_replayAccess {evs : List BusEvent} {s : State} (h : InvAside s)
    (hevs : ∀ w, .writeCtrl w ∈ evs → CleanControlWord s.cfg w) :
    InvAside (evs.foldl replayAccess s) ∧ (evs.foldl replayAccess s).cfg = s.cfg := by
  induction evs generalizing s with
  | nil => exact ⟨h, rfl⟩
  | cons ev evs ih =>
    have hcfg := (busOnly_replayAccess s ev).cfg
    have hev : InvAside (replayAccess s ev) := by
      cases ev with
      | readCtrl _ => exact h.readCtrl
      | writeCtrl w => exact h.writeCtrl (hevs w (by simp))
      | readData _ => exact h.readData
    obtain ⟨hrest, hcfg'⟩ := ih hev fun w hw => hcfg.symm ▸ hevs w (by simp [hw])
    exact ⟨hrest, hcfg'.trans hcfg⟩

/-- Where the reset input stands plays no part in the invariant. -/
theorem Inv.withReset {s : State} (h : Inv s) (r : Option Nat) : Inv (withReset r s) where
  context_supported := h.context_supported
  response_sound := h.response_sound
  wait_sound := h.wait_sound
  run_sound := fun w hw =>
    have hrun := h.run_sound w hw
    SoundWork.soundRun (s := Machine.withReset r s) hrun.soundWork hrun.silent
  history_clean := h.history_clean
  cells := h.cells

/-- From `s` to `t` the invariant and the configuration are kept. -/
structure Kept (s t : State) : Prop where
  inv : Inv t
  cfg : t.cfg = s.cfg

/-- A command abandoned after `n` accesses is reset from the state after them (70_reset_and_hazards.md R296). -/
theorem resetFrom_abandon (n : Nat) (s t : State) :
    ResetFrom (((t.history.drop s.history.length).take n).foldl replayAccess s) (abandon n s t) :=
  (resetFrom_resetBlock _).withCommands t.commands

/-- A step cut by the reset input keeps what the whole step keeps (70_reset_and_hazards.md R296; log 8). -/
theorem kept_resetWithin {s t : State} (h : Inv s) (ht : Kept s t) (n : Nat) : Kept s (resetWithin n s t) := by
  unfold resetWithin
  split
  · exact ⟨ht.inv.withReset _, ht.cfg⟩
  · have hclean (w : Word) (hw : .writeCtrl w ∈ (t.history.drop s.history.length).take n) : CleanControlWord s.cfg w :=
      ht.cfg ▸ ht.inv.history_clean w (List.mem_of_mem_drop (List.mem_of_mem_take hw))
    obtain ⟨hmade, hcfg⟩ := invAside_foldl_replayAccess h.aside hclean
    have hreset := resetFrom_abandon n s t
    exact ⟨hmade.inv_of_reset hreset, hreset.cfg.trans hcfg⟩

/-- The sequencer's step under the reset input. -/
theorem kept_accessStep {s t : State} (hwf : s.cfg.bus.WF) (h : Inv s) (ht : accessStep s = .next t) : Kept s t := by
  have hgo {u : State} (hu : advanceOne s = .next u) : Kept s u := ⟨inv_advanceOne hwf h hu, advanceOne_cfg hu⟩
  unfold accessStep underReset at ht
  split at ht
  · exact hgo ht
  · split at ht
    · cases ht
      exact ⟨h.aside.inv_of_reset (resetFrom_resetBlock s), resetBlock_cfg s⟩
    · split at ht
      · next u hu =>
        cases ht
        exact kept_resetWithin h (hgo hu) _
      · cases ht
      · cases ht

theorem kept_accessSteps {n : Nat} {s t : State} (hwf : s.cfg.bus.WF) (h : Inv s) (ht : accessSteps n s = .next t) :
    Kept s t := by
  induction n generalizing s with
  | zero => cases ht; exact ⟨h, rfl⟩
  | succ n ih =>
    unfold accessSteps at ht
    split at ht
    · next m hm =>
      have hfirst := kept_accessStep hwf h hm
      have hrest := ih (hfirst.cfg ▸ hwf) hfirst.inv ht
      exact ⟨hrest.inv, hrest.cfg.trans hfirst.cfg⟩
    · cases ht
    · cases ht

/-- Between two accesses the machine's step is the sequencer's (log 1). -/
theorem step_of_running {s : State} {w : Work} (h : s.seq = .running w) : step s = accessStep s := by
  have hgo : advance s = advanceOne s := by simp [advance, advanceOne, h]
  simp only [step, accessStep, underReset, hgo]

/-- The machine's step keeps what the sequencer's steps keep, being made of them. -/
theorem kept_step {s t : State} (hwf : s.cfg.bus.WF) (h : Inv s) (ht : step s = .next t) : Kept s t := by
  by_cases hrun : ∃ w, s.seq = .running w
  · obtain ⟨w, hw⟩ := hrun
    exact kept_accessStep hwf h (step_of_running hw ▸ ht)
  · obtain ⟨n, hn⟩ := accessStepsMakeTheStep s t (not_exists.1 hrun) ht
    exact kept_accessSteps hwf h hn

/-- Settles O52: one access, an acceptance and a delivery each keep the invariant, the reset input keeps it wherever it
lands, and the machine's step is made of these. -/
theorem invariantKeptByEveryStep : Obligations.InvariantKeptByEveryStep := by
  rintro s t hwf h (ht | ht)
  · exact (kept_step hwf.bus h ht).inv
  · exact (kept_accessStep hwf.bus h ht).inv

end Sys2Proof.Machine

/-! PROOFS. The frame of every command: it ends in a next state and only adds to the history (20_memory.md R51, R60). -/

namespace Sys2Proof.Machine

/-- A command runs in its frame, from `s` but for the context CTX_INIT makes. -/
theorem exists_runFrame_exec {i : Instr} {s t : State} (h : exec i s = .next t) :
    ∃ ctx, RunFrame (writtenRegs s.cfg i) { s with ctx := ctx } t := by
  by_cases hi : i = .ctxInit
  · subst hi
    exact ⟨t.ctx, runFrame_exec_ctxInit h⟩
  · exact ⟨s.ctx, runFrame_exec hi h⟩

/-- Settles O56: a command, run access by access, has an end, and the frame of its run holds what is asked. -/
theorem commandFrame : Obligations.CommandFrame := by
  refine ⟨fun s i => ?_, fun s c ph k => ?_⟩
  · obtain ⟨t, ht, -⟩ := leads_exec i s
    obtain ⟨ctx, hframe⟩ := exists_runFrame_exec ht
    exact ⟨t, ht, hframe.cfg, hframe.commands, hframe.resetIn, hframe.resets, hframe.history⟩
  · have hframe := runFrame_resume c ph k s
    exact ⟨hframe.cfg, hframe.commands, hframe.resetIn, hframe.resets, hframe.history⟩

end Sys2Proof.Machine

/-! PROOFS. ENV0's cells: a write control word changes the cell it names, and no other access changes one (20_memory.md
R53, R70; log 18). -/

namespace Sys2Proof.Machine

/-! ## One command to ENV0 -/

/-- A read command changes the latch only (R70). -/
@[simp] theorem env0Read_sw (cfg : Config) (dev : Nat) (reg : RegNum) (e : Env0) :
    (env0Read cfg dev reg e).sw = e.sw := by
  simp only [env0Read]
  repeat' split
  all_goals rfl

/-- A read command latches the cell, but an operation register shows its busy bit (R70). -/
theorem env0Read_rl {cfg : Config} {dev : Nat} {reg : RegNum} (hatu : isAtuOperation cfg dev reg = false)
    (hpvt : isPvtOperation cfg dev reg = false) (e : Env0) :
    (env0Read cfg dev reg e).rl = readCell e.sw (cellNumber dev reg) := by
  simp [env0Read, hatu, hpvt]

/-- What ENV0 keeps of a datum written to a cell: an operation register loses bit 15, unless the environment delays
(R70). -/
def env0Stored (cfg : Config) (dev : Nat) (reg : RegNum) (delay : Option Nat) (v : Half) : Half :=
  if (isAtuOperation cfg dev reg || isPvtOperation cfg dev reg) && delay.isNone then v &&& 0x7FFF else v

/-- A write command writes one cell (R70). -/
theorem env0Write_sw (cfg : Config) (dev : Nat) (reg : RegNum) (v : Half) (e : Env0) :
    (env0Write cfg dev reg v e).sw =
      writeCell e.sw (cellNumber dev reg) (env0Stored cfg dev reg e.delay v) := by
  unfold env0Write env0Stored
  cases isAtuOperation cfg dev reg with
  | true => cases e.delay <;> rfl
  | false =>
    cases isPvtOperation cfg dev reg with
    | true => cases e.delay <;> rfl
    | false => rfl

/-- A command to ENV0 changes no cell but the one it writes (R53, R70). -/
theorem readCell_env0Command (cfg : Config) {w : Word} {n : Nat} (h : env0WrittenCell w ≠ some n) (e : Env0) :
    readCell (env0Command cfg w e).sw n = readCell e.sw n := by
  unfold env0WrittenCell at h
  unfold env0Command
  split
  · rw [env0Read_sw]
  · next hwrite =>
    have hne : n ≠ cellNumber (env0Dev w) (env0Reg w) := fun heq => h (by rw [if_neg hwrite, heq])
    rw [env0Write_sw, readCell_writeCell_of_ne _ _ hne]

/-! ## Stretches of accesses -/

/-- From `s` to `t`, against ENV0, a cell that no control word written on the way names reads as before. -/
def CellsFrame (s t : State) : Prop :=
  ∃ evs, t.history = s.history ++ evs ∧ ∀ e, s.env = .env0 e → ∃ e', t.env = .env0 e' ∧
    ∀ n, (∀ w, .writeCtrl w ∈ evs → env0WrittenCell w ≠ some n) → readCell e'.sw n = readCell e.sw n

theorem SameBus.cellsFrame {s t : State} (h : SameBus s t) : CellsFrame s t :=
  ⟨[], by simp [h.history], fun e he => ⟨e, h.env.trans he, fun _ _ => rfl⟩⟩

theorem CellsFrame.trans {s t u : State} (h : CellsFrame s t) (k : CellsFrame t u) : CellsFrame s u := by
  obtain ⟨evs, hhistory, hcells⟩ := h
  obtain ⟨evs', hhistory', hcells'⟩ := k
  refine ⟨evs ++ evs', by simp [hhistory, hhistory'], fun e he => ?_⟩
  obtain ⟨e', he', hread⟩ := hcells e he
  obtain ⟨e'', he'', hread'⟩ := hcells' e' he'
  refine ⟨e'', he'', fun n hn => ?_⟩
  rw [hread' n fun w hw => hn w (List.mem_append_right _ hw), hread n fun w hw => hn w (List.mem_append_left _ hw)]

theorem cellsFrame_memReadCtrl (s : State) : CellsFrame s (memReadCtrl s).2 :=
  ⟨_, memReadCtrl_history s, fun e he => ⟨e, by simp [memReadCtrl, he], fun _ _ => rfl⟩⟩

theorem cellsFrame_memReadData (s : State) : CellsFrame s (memReadData s).2 :=
  ⟨_, memReadData_history s, fun e he => ⟨e, by simp [memReadData, he], fun _ _ => rfl⟩⟩

theorem cellsFrame_memWriteCtrl (w : Word) (s : State) : CellsFrame s (memWriteCtrl w s) :=
  ⟨_, rfl, fun e he => ⟨env0Command s.cfg w e, by simp [he, absorb], fun _ hn =>
    readCell_env0Command s.cfg (hn w (List.mem_singleton_self _)) e⟩⟩

theorem cellsFrame_replayAccess (s : State) (ev : BusEvent) : CellsFrame s (replayAccess s ev) := by
  cases ev with
  | readCtrl _ => exact cellsFrame_memReadCtrl s
  | writeCtrl w => exact cellsFrame_memWriteCtrl w s
  | readData _ => exact cellsFrame_memReadData s

theorem OneAccess.cellsFrame {s t : State} (h : OneAccess s t) : CellsFrame s t := by
  rcases h with h | ⟨ev, -, h⟩
  · exact h.cellsFrame
  · exact (cellsFrame_replayAccess s ev).trans h.cellsFrame

/-- A command run access by access keeps the cells it does not write. -/
theorem Leads.cellsFrame {w : Work} {s u : State} (h : Leads w s u) : CellsFrame s u := by
  obtain ⟨m, hfirst, hrest⟩ := h
  induction hrest with
  | refl => exact hfirst.access.cellsFrame
  | tail _ hstep ih =>
    obtain ⟨_, -, hgo⟩ := hstep
    exact ih.trans hgo.access.cellsFrame

/-- The frame in terms of the history alone. -/
theorem CellsFrame.exists_env0 {s t : State} (h : CellsFrame s t) {e : Env0} (he : s.env = .env0 e) :
    ∃ e', t.env = .env0 e' ∧
      ∀ n, (∀ w, .writeCtrl w ∈ t.history.drop s.history.length → env0WrittenCell w ≠ some n) →
        readCell e'.sw n = readCell e.sw n := by
  obtain ⟨evs, hhistory, hcells⟩ := h
  rw [hhistory, List.drop_left]
  exact hcells e he

/-- Settles O57: a command and a step of its wait are made of single accesses, and each keeps the cells it does not
write. -/
theorem env0CellsFrame : Obligations.Env0CellsFrame := by
  refine ⟨fun s t i e he ht => ?_, fun s c ph k e he => (leads_resume c ph k s).cellsFrame.exists_env0 he⟩
  obtain ⟨u, hu, hleads⟩ := leads_exec i s
  obtain rfl : u = t := by simpa [hu] using ht
  exact hleads.cellsFrame.exists_env0 he

end Sys2Proof.Machine

/-! PROOFS. The fields of a control word read back where the configuration puts them (41_bus_transport.md R135). -/

namespace Sys2Proof.Machine

/-- A slice with no bit set is zero. -/
theorem extractLsb'_eq_zero {w : Word} {k n : Nat} (h : ∀ i < n, w.getLsbD (k + i) = false) :
    w.extractLsb' k n = 0#n := by
  apply BitVec.eq_of_getLsbD_eq
  intro i hi
  simp [hi, h i hi]

/-- A five-bit field in place gives back its number. -/
theorem extractLsb'_shiftedField_same {x k : Nat} (hk : k + 5 ≤ 32) :
    (BitVec.ofNat 32 (x <<< k)).extractLsb' k 5 = BitVec.ofNat 5 x := by
  apply BitVec.eq_of_getLsbD_eq
  intro i hi
  rw [BitVec.getLsbD_extractLsb', BitVec.getLsbD_ofNat, BitVec.getLsbD_ofNat, Nat.testBit_shiftLeft]
  simp [hi, show k + i < 32 by omega]

/-- A slice clear of a five-bit field sees nothing of it. -/
theorem extractLsb'_shiftedField_apart {x k j n : Nat} (hx : x < 32) (h : j + n ≤ k ∨ k + 5 ≤ j) :
    (BitVec.ofNat 32 (x <<< k)).extractLsb' j n = 0#n :=
  extractLsb'_eq_zero fun i hi => getLsbD_shiftedField hx (by omega)

/-- The low half of a datum put in a word is the datum. -/
theorem extractLsb'_setWidth_low (v : Half) : (v.setWidth 32).extractLsb' 0 16 = v := by
  apply BitVec.eq_of_getLsbD_eq
  intro i hi
  rw [BitVec.getLsbD_extractLsb', BitVec.getLsbD_setWidth]
  simp [hi, show i < 32 by omega]

/-- No field above the data sees the datum. -/
theorem extractLsb'_setWidth_high (v : Half) {k : Nat} (hk : 16 ≤ k) (n : Nat) :
    (v.setWidth 32).extractLsb' k n = 0#n :=
  extractLsb'_eq_zero fun i _ => by simp [BitVec.getLsbD_of_ge v (k + i) (by omega)]

/-- A slice clear of both opcodes is clear of each. -/
theorem extractLsb'_opcodes {c : BusCfg} {k n : Nat}
    (h : ∀ i < n, (c.opcRead ||| c.opcWrite).getLsbD (k + i) = false) :
    c.opcRead.extractLsb' k n = 0#n ∧ c.opcWrite.extractLsb' k n = 0#n := by
  have hbits : ∀ i < n, c.opcRead.getLsbD (k + i) = false ∧ c.opcWrite.getLsbD (k + i) = false := by simpa using h
  exact ⟨extractLsb'_eq_zero fun i hi => (hbits i hi).1, extractLsb'_eq_zero fun i hi => (hbits i hi).2⟩

section Fields
variable {cfg : Config} {dev : Nat}

/-- The address fields, each in its place, and nothing where the data go. -/
theorem extractLsb'_addressFields (h : cfg.bus.WF) (hdev : dev < 32) (reg : RegNum) :
    (addressFields cfg dev reg).extractLsb' cfg.bus.devShift 5 = BitVec.ofNat 5 dev ∧
    (addressFields cfg dev reg).extractLsb' cfg.bus.regShift 5 = reg ∧
    (addressFields cfg dev reg).extractLsb' 0 16 = 0#16 := by
  have hapart := h.dev_reg
  simp only [addressFields, BitVec.extractLsb'_or]
  refine ⟨?_, ?_, ?_⟩
  · rw [extractLsb'_shiftedField_same h.dev_high, extractLsb'_shiftedField_apart reg.isLt (by omega), BitVec.or_zero]
  · rw [extractLsb'_shiftedField_same h.reg_high, extractLsb'_shiftedField_apart hdev hapart.symm, BitVec.zero_or,
      BitVec.ofNat_toNat, BitVec.setWidth_eq]
  · rw [extractLsb'_shiftedField_apart hdev (.inl h.dev_low), extractLsb'_shiftedField_apart reg.isLt (.inl h.reg_low),
      BitVec.or_zero]

/-- The fields of a read command (R135). -/
theorem extractLsb'_cwRead (h : cfg.bus.WF) (hdev : dev < 32) (reg : RegNum) :
    (cwRead cfg dev reg).extractLsb' cfg.bus.devShift 5 = BitVec.ofNat 5 dev ∧
    (cwRead cfg dev reg).extractLsb' cfg.bus.regShift 5 = reg ∧ (cwRead cfg dev reg).extractLsb' 0 16 = 0#16 := by
  obtain ⟨hd, hr, hv⟩ := extractLsb'_addressFields h hdev reg
  have hopcd := (extractLsb'_opcodes h.opc_dev).1
  have hopcr := (extractLsb'_opcodes h.opc_reg).1
  have hopcv := (extractLsb'_opcodes (k := 0) fun i hi => (Nat.zero_add i).symm ▸ h.opc_data i hi).1
  simp only [cwRead, BitVec.extractLsb'_or, hd, hr, hv, hopcd, hopcr, hopcv, BitVec.or_zero, and_self]

/-- The fields of a write command (R135). -/
theorem extractLsb'_cwWrite (h : cfg.bus.WF) (hdev : dev < 32) (reg : RegNum) (v : Half) :
    (cwWrite cfg dev reg v).extractLsb' cfg.bus.devShift 5 = BitVec.ofNat 5 dev ∧
    (cwWrite cfg dev reg v).extractLsb' cfg.bus.regShift 5 = reg ∧ (cwWrite cfg dev reg v).extractLsb' 0 16 = v := by
  obtain ⟨hd, hr, hv⟩ := extractLsb'_addressFields h hdev reg
  have hopcd := (extractLsb'_opcodes h.opc_dev).2
  have hopcr := (extractLsb'_opcodes h.opc_reg).2
  have hopcv := (extractLsb'_opcodes (k := 0) fun i hi => (Nat.zero_add i).symm ▸ h.opc_data i hi).2
  simp only [cwWrite, BitVec.extractLsb'_or, hd, hr, hv, hopcd, hopcr, hopcv, extractLsb'_setWidth_low,
    extractLsb'_setWidth_high v h.dev_low, extractLsb'_setWidth_high v h.reg_low, BitVec.or_zero, BitVec.zero_or,
    and_self]

/-- A bit outside both address fields is none of theirs. -/
theorem getLsbD_addressFields_apart {b : Nat} (hdev : dev < 32) (reg : RegNum)
    (hd : b < cfg.bus.devShift ∨ cfg.bus.devShift + 5 ≤ b) (hr : b < cfg.bus.regShift ∨ cfg.bus.regShift + 5 ≤ b) :
    (addressFields cfg dev reg).getLsbD b = false := by
  rw [addressFields, BitVec.getLsbD_or, getLsbD_shiftedField hdev hd, getLsbD_shiftedField reg.isLt hr]
  rfl

end Fields

end Sys2Proof.Machine

/-! PROOFS. Against ENV0 a read gives the cell and a write stores to it (20_memory.md R53, R70; 41_bus_transport.md
R140, R141). -/

namespace Sys2Proof.Machine

/-! ## ENV0 takes the CFG0 control words apart -/

section Layout
variable {cfg : Config} {dev : Nat}

/-- ENV0 finds a device address where the CFG0 layout puts it (R70). -/
theorem env0Dev_of_field {w : Word} (h : w.extractLsb' 16 5 = BitVec.ofNat 5 dev) (hdev : dev < 32) :
    env0Dev w = dev := by
  rw [env0Dev, h, BitVec.toNat_ofNat, Nat.mod_eq_of_lt hdev]

/-- A read command in the CFG0 layout reads the cell it names (R70). -/
theorem env0Command_cwRead (hbus : cfg.bus = bus0) (hdev : dev < 32) (reg : RegNum) (e : Env0) :
    env0Command cfg (cwRead cfg dev reg) e = env0Read cfg dev reg e := by
  obtain ⟨hd, hr, -⟩ := extractLsb'_cwRead (hbus ▸ bus0_wf) hdev reg
  rw [hbus] at hd hr
  have hread : (cwRead cfg dev reg).getLsbD 26 = true := by
    rw [cwRead, BitVec.getLsbD_or, hbus, show bus0.opcRead.getLsbD 26 = true from rfl, Bool.or_true]
  rw [env0Command, if_pos hread, env0Dev_of_field hd hdev, show env0Reg _ = reg from hr]

/-- A write command in the CFG0 layout writes the cell it names (R70). -/
theorem env0Command_cwWrite (hbus : cfg.bus = bus0) (hdev : dev < 32) (reg : RegNum) (v : Half) (e : Env0) :
    env0Command cfg (cwWrite cfg dev reg v) e = env0Write cfg dev reg v e := by
  obtain ⟨hd, hr, hv⟩ := extractLsb'_cwWrite (hbus ▸ bus0_wf) hdev reg v
  rw [hbus] at hd hr
  have haddress : (addressFields cfg dev reg).getLsbD 26 = false :=
    getLsbD_addressFields_apart hdev reg (.inr (hbus ▸ by decide)) (.inr (hbus ▸ by decide))
  have hwrite : (cwWrite cfg dev reg v).getLsbD 26 = false := by
    rw [cwWrite, BitVec.getLsbD_or, BitVec.getLsbD_or, haddress, hbus, show bus0.opcWrite.getLsbD 26 = false from rfl,
      BitVec.getLsbD_setWidth, BitVec.getLsbD_of_ge v 26 (by decide)]
    rfl
  rw [env0Command, if_neg (by rw [hwrite]; decide), env0Dev_of_field hd hdev, show env0Reg _ = reg from hr, hv]

end Layout

/-! ## Runs against ENV0 -/

/-- ENV0 is never busy and always read-valid (R70). -/
theorem ready_env0Ctrl {cfg : Config} (h : cfg.bus.WF) (e : Env0) : Ready cfg (env0Ctrl cfg e) := by
  have hctrl : env0Ctrl cfg e = BitVec.twoPow 32 cfg.bus.rvalidBit ||| e.rl.setWidth 32 := rfl
  constructor <;> rw [hctrl, BitVec.getLsbD_or, BitVec.getLsbD_twoPow]
  · simp [h.busy_rvalid.symm, BitVec.getLsbD_of_ge e.rl _ h.busy_low]
  · simp [h.rvalid_high]

/-- `s` after the accesses `evs`, ENV0 being left as `e`. -/
def env0Moved (s : State) (e : Env0) (evs : List BusEvent) : State :=
  { s with env := .env0 e, history := s.history ++ evs }

@[simp] theorem env0Moved_cfg (s : State) (e : Env0) (evs : List BusEvent) : (env0Moved s e evs).cfg = s.cfg := rfl

@[simp] theorem env0Moved_env0Moved (s : State) (e e' : Env0) (evs evs' : List BusEvent) :
    env0Moved (env0Moved s e evs) e' evs' = env0Moved s e' (evs ++ evs') := by
  simp [env0Moved, List.append_assoc]

section Runs
variable {s : State} {e : Env0}

theorem memReadCtrl_env0 (h : s.env = .env0 e) :
    memReadCtrl s = (env0Ctrl s.cfg e, env0Moved s e [.readCtrl (env0Ctrl s.cfg e)]) := by
  simp [memReadCtrl, h, env0Moved, record]

theorem memReadData_env0 (h : s.env = .env0 e) :
    memReadData s = (e.rl.setWidth 32, env0Moved s e [.readData (e.rl.setWidth 32)]) := by
  simp [memReadData, h, env0Moved, record]

theorem memWriteCtrl_env0 (w : Word) (h : s.env = .env0 e) :
    memWriteCtrl w s = env0Moved s (env0Command s.cfg w e) [.writeCtrl w] := by
  simp [memWriteCtrl, h, env0Moved, record, absorb]

/-- Against ENV0 the busy poll ends at its first read (R132). -/
theorem pollBusy_env0 (hw : s.cfg.bus.WF) (h : s.env = .env0 e) :
    pollBusy s = (.ok (), env0Moved s e [.readCtrl (env0Ctrl s.cfg e)]) := by
  obtain ⟨n, hn⟩ := Nat.exists_eq_add_of_le' hw.busyPoll_pos
  rw [pollBusy, hn, pollBusyFrom, memReadCtrl_env0 h, if_neg (by simp [(ready_env0Ctrl hw e).1])]

/-- Against ENV0 the read-valid poll ends at its first read (R136). -/
theorem pollValid_env0 (hw : s.cfg.bus.WF) (h : s.env = .env0 e) :
    pollValid s = (.ok (), env0Moved s e [.readCtrl (env0Ctrl s.cfg e)]) := by
  obtain ⟨n, hn⟩ := Nat.exists_eq_add_of_lt hw.rvalidPoll_larger
  rw [pollValid, hn, pollValidFrom, memReadCtrl_env0 h, if_pos (ready_env0Ctrl hw e).2]

/-- A `SmiWrite` against ENV0 (R134). -/
theorem smiWrite_env0 {dev : Nat} (hw : s.cfg.bus.WF) (ha : addressLegal s.cfg dev = true) (h : s.env = .env0 e)
    (reg : RegNum) (v : Half) :
    smiWrite dev reg v s = (.ok (), env0Moved s (env0Command s.cfg (cwWrite s.cfg dev reg v) e)
      (writeTrace s.cfg dev reg v (env0Ctrl s.cfg e))) := by
  unfold smiWrite
  rw [andThen_of_ok (checkAddress_of_legal ha), andThen_of_ok (pollBusy_env0 hw h), issue, memWriteCtrl_env0 _ rfl,
    env0Moved_env0Moved]
  rfl

/-- A `SmiRead` against ENV0 gives the latch as the read command leaves it (R133). -/
theorem smiRead_env0 {dev : Nat} (hw : s.cfg.bus.WF) (ha : addressLegal s.cfg dev = true) (h : s.env = .env0 e)
    (reg : RegNum) {e' : Env0} (he' : env0Command s.cfg (cwRead s.cfg dev reg) e = e') :
    smiRead dev reg s = (.ok e'.rl, env0Moved s e'
      (readTrace s.cfg dev reg (env0Ctrl s.cfg e) (env0Ctrl s.cfg e') (e'.rl.setWidth 32))) := by
  unfold smiRead
  rw [andThen_of_ok (checkAddress_of_legal ha), andThen_of_ok (pollBusy_env0 hw h), andThen_issue,
    memWriteCtrl_env0 _ rfl, env0Moved_env0Moved, env0Moved_cfg, he',
    andThen_of_ok (pollValid_env0 (s := env0Moved s e' _) hw rfl), fetchData, memReadData_env0 rfl]
  simp [readTrace, extractLsb'_setWidth_low]

/-! ## The two commands -/

/-- SMI_WR against ENV0 in the CFG0 layout (R141). -/
theorem exec_smiWr_env0 {dev : BitVec 8} (hbus : s.cfg.bus = bus0) (h : s.env = .env0 e) (hdev : dev.toNat < 32)
    (reg : RegNum) (v : Half) :
    exec (.smiWr dev reg v) s = .next (respond .ok 0 (env0Moved s (env0Write s.cfg dev.toNat reg v e)
      (writeTrace s.cfg dev.toNat reg v (env0Ctrl s.cfg e)))) := by
  have hw : s.cfg.bus.WF := hbus ▸ bus0_wf
  have hwrite := smiWrite_env0 hw (by simpa [addressLegal_eq hw] using hdev) h reg v
  rw [env0Command_cwWrite hbus hdev] at hwrite
  simp only [exec, execSmiWr, finish, andThen_of_ok hwrite, give]

/-- SMI_RD against ENV0 in the CFG0 layout (R140). -/
theorem exec_smiRd_env0 {dev : BitVec 8} (hbus : s.cfg.bus = bus0) (h : s.env = .env0 e) (hdev : dev.toNat < 32)
    (reg : RegNum) {e' : Env0} (he' : env0Read s.cfg dev.toNat reg e = e') :
    exec (.smiRd dev reg) s = .next (respond .ok e'.rl (env0Moved s e'
      (readTrace s.cfg dev.toNat reg (env0Ctrl s.cfg e) (env0Ctrl s.cfg e') (e'.rl.setWidth 32)))) := by
  have hw : s.cfg.bus.WF := hbus ▸ bus0_wf
  have hread := smiRead_env0 hw (by simpa [addressLegal_eq hw] using hdev) h reg
    ((env0Command_cwRead hbus hdev reg e).trans he')
  simp only [exec, execSmiRd, finish, hread]

end Runs

/-- Settles O21: the commands run against ENV0 to their end, and ENV0's cells read back what is written. -/
theorem env0HoldsWhatIsWritten : Obligations.Env0HoldsWhatIsWritten := by
  intro s e dev reg v hbus henv hwf hdev
  refine ⟨⟨_, _, exec_smiWr_env0 hbus henv hdev reg v, rfl, rfl, ?_⟩, ?_⟩
  · rw [env0Write_sw]
    exact ⟨wf_writeCell _ _ hwf, fun n hn => readCell_writeCell_of_ne _ _ hn, readCell_writeCell_same _ _ _ hwf⟩
  · refine ⟨_, _, exec_smiRd_env0 hbus henv hdev reg rfl, rfl, env0Read_sw _ _ _ e, fun hatu hpvt => ?_⟩
    rw [respond_response, env0Read_rl hatu hpvt]

end Sys2Proof.Machine

/-! PROOFS. The decoder and the encoder agree, and the words that decode are the legal ones (30_encoding.md R81 to R83,
R88, R96). -/

namespace Sys2Proof.Machine

/-! ## A word and the fields its format uses -/

/-- The word of the opcode `op` and of those fields of `w` that the format `f` uses (30_encoding.md R82). -/
def keepUsed (f : CmdFormat) (op : BitVec 8) (w : Command) : Command :=
  packCommand op (if f.a then fieldA w else 0) (if f.k then fieldK w else 0) (if f.r then fieldR w else 0)
    (if f.len then fieldLen w else 0) (if f.off then fieldOff w else 0) (if f.idx then fieldIdx w else 0)
    (if f.v then fieldV w else 0)

theorem used_eq_self {n : Nat} {used : Bool} {x : BitVec n} (h : used = false → x = 0) : (if used then x else 0) = x := by
  cases used with
  | true => rfl
  | false => exact (h rfl).symm

/-- A word whose reserved and unused fields are zero loses nothing. -/
theorem keepUsed_eq_self {f : CmdFormat} {w : Command} (hr : w &&& reservedMask = 0) (hu : w &&& unusedMask f = 0) :
    keepUsed f (fieldOp w) w = w := by
  obtain ⟨ha, hk, hR, hlen, hoff, hidx, hv⟩ := (and_unusedMask_eq_zero hr f).mp hu
  rw [keepUsed, used_eq_self ha, used_eq_self hk, used_eq_self hR, used_eq_self hlen, used_eq_self hoff,
    used_eq_self hidx, used_eq_self hv]
  exact packCommand_fields hr

/-- A packed word passes the decoder's checks under every format that uses its nonzero fields (30_encoding.md R88). -/
theorem checkedAs_packCommand {f : CmdFormat} {op a : BitVec 8} {k : BitVec 3} {r len : BitVec 5} {off idx : BitVec 4}
    {v : Half} (i : Instr)
    (h : (f.a = false → a = 0) ∧ (f.k = false → k = 0) ∧ (f.r = false → r = 0) ∧ (f.len = false → len = 0) ∧
      (f.off = false → off = 0) ∧ (f.idx = false → idx = 0) ∧ (f.v = false → v = 0)) :
    checkedAs (packCommand op a k r len off idx v) f i = .ok i := by
  have hr := packCommand_and_reservedMask op a k r len off idx v
  exact checkedAs_eq_ok.mpr ⟨hr, (and_unusedMask_eq_zero hr f).mpr (by simpa using h), rfl⟩

/-! ## Decoding an encoded command -/

/-- Settles O1: the fields of a packed word read back as packed, and each command packs only fields its format uses. -/
theorem decodeEncodeRoundTrip : Obligations.DecodeEncodeRoundTrip := by
  intro i hwf
  cases i with
  | ctxRd n =>
    have hn : n.toNat ≤ 6 := of_decide_eq_true hwf
    simp [decode, encode, hn, checkedAs_packCommand, fmtE0]
  | _ =>
    simp [decode, encode, checkedAs_packCommand, fmtN, fmtE, fmtE0, fmtD, fmtD0, fmtDF, fmtM, fmtM0, fmtMF, fmtP]

theorem decode_of_encode {w : Command} (i : Instr) (hw : encode i = w) (hwf : i.wf = true) : decode w = .ok i :=
  hw ▸ decodeEncodeRoundTrip i hwf

/-- Settles O3: each word of R96 is the encoding of the command it stands for. -/
theorem specExampleWordsDecode : Obligations.SpecExampleWordsDecode := by
  exact ⟨decode_of_encode _ (by decide) rfl, decode_of_encode _ (by decide) rfl, decode_of_encode _ (by decide) rfl,
    decode_of_encode _ (by decide) rfl, decode_of_encode _ (by decide) rfl⟩

/-! ## What the decoder answers -/

/-- `i` is the command that the opcode of `w` names, of the format `f`, with the operands `w` holds (30_encoding.md R82,
R83, R88). -/
structure Names (w : Command) (f : CmdFormat) (i : Instr) : Prop where
  encode : encode i = keepUsed f (fieldOp w) w
  wf : i.wf = true ↔ (fieldOp w = 0x04 → (fieldIdx w).toNat ≤ 6)

/-- The decoder's answer for a word whose opcode names `i`. -/
def answerFor (w : Command) (f : CmdFormat) (i : Instr) : Except DecodeError Instr :=
  if i.wf then checkedAs w f i else .error (.contextIndex (fieldIdx w))

theorem answerFor_eq_ok {w : Command} {f : CmdFormat} {i j : Instr} :
    answerFor w f i = .ok j ↔ i.wf = true ∧ w &&& reservedMask = 0 ∧ w &&& unusedMask f = 0 ∧ i = j := by
  rw [answerFor]
  split <;> simp [*, checkedAs_eq_ok]

/-- A row of the opcode map that has nothing to check but its format. -/
theorem names_of_row {w : Command} {n : Nat} {f : CmdFormat} {i : Instr} (hop : (fieldOp w).toNat = n)
    (hf : opcodeFormat (BitVec.ofNat 8 n) = some f) (hi : encode i = keepUsed f (BitVec.ofNat 8 n) w)
    (hwf : i.wf = true) (hn : n ≠ 4) :
    ∃ g j, opcodeFormat (fieldOp w) = some g ∧ Names w g j ∧ checkedAs w f i = answerFor w g j := by
  have hfield : fieldOp w = BitVec.ofNat 8 n := by rw [← hop, BitVec.ofNat_toNat, BitVec.setWidth_eq]
  refine ⟨f, i, hfield ▸ hf, ⟨hfield ▸ hi, iff_of_true hwf fun h4 => ?_⟩, (if_pos hwf).symm⟩
  exact absurd (by rw [← hop, h4]; rfl) hn

/-- What the decoder can do with a word: its opcode is in no row of R83's map, or it names a command, which is answered if
the word passes the checks of R88. -/
theorem decode_cases (w : Command) :
    (opcodeFormat (fieldOp w) = none ∧ decode w = .error (.unknownOpcode (fieldOp w))) ∨
    ∃ f i, opcodeFormat (fieldOp w) = some f ∧ Names w f i ∧ decode w = answerFor w f i := by
  unfold decode
  split
  case h_4 hop =>
    have hfield : fieldOp w = 0x04 := BitVec.eq_of_toNat_eq hop
    refine .inr ⟨fmtE0, .ctxRd (fieldIdx w), hfield ▸ rfl, ⟨hfield ▸ rfl, ?_⟩, ?_⟩
    · simp [Instr.wf, hfield]
    · simp [answerFor, Instr.wf]
  case h_30 =>
    refine .inl ⟨?_, rfl⟩
    unfold opcodeFormat
    split
    case h_30 => rfl
    all_goals contradiction
  all_goals
    rename_i hop
    exact .inr (names_of_row hop rfl rfl rfl (by decide))

/-- Settles O2: what a word decodes to keeps the word's used fields, and the decoder's checks say it has no others. -/
theorem encodeDecodeRoundTrip : Obligations.EncodeDecodeRoundTrip := by
  intro w i hd
  obtain ⟨-, he⟩ | ⟨f, j, -, hnames, ha⟩ := decode_cases w
  · rw [he] at hd
    cases hd
  · rw [ha] at hd
    obtain ⟨hwf, hr, hu, rfl⟩ := answerFor_eq_ok.mp hd
    exact ⟨hnames.encode.trans (keepUsed_eq_self hr hu), hwf⟩

/-! ## Legal words -/

/-- `w` is a command word of the format `f`: what R83 asks of its opcode and R88 of its fields. -/
structure LegalAs (f : CmdFormat) (w : Command) : Prop where
  format : opcodeFormat (fieldOp w) = some f
  reserved : w &&& reservedMask = 0
  unused : w &&& unusedMask f = 0
  index : fieldOp w = 0x04 → (fieldIdx w).toNat ≤ 6

/-- The words that decode are the legal ones (30_encoding.md R88). -/
theorem exists_decode_iff (w : Command) : (∃ i, decode w = .ok i) ↔ ∃ f, LegalAs f w := by
  obtain ⟨hnone, he⟩ | ⟨f, i, hf, hnames, ha⟩ := decode_cases w
  · refine iff_of_false (fun ⟨i, hi⟩ => ?_) (fun ⟨f, hlegal⟩ => ?_)
    · rw [he] at hi
      cases hi
    · exact nomatch hnone.symm.trans hlegal.format
  · simp only [ha, answerFor_eq_ok]
    constructor
    · rintro ⟨_, hwf, hr, hu, -⟩
      exact ⟨f, hf, hr, hu, hnames.wf.mp hwf⟩
    · rintro ⟨g, hg, hr, hu, hidx⟩
      obtain rfl : f = g := Option.some.inj (hf.symm.trans hg)
      exact ⟨i, hnames.wf.mpr hidx, hr, hu, rfl⟩

/-! ## The rows of the opcode table -/

/-- The bits a format holds at zero, the reserved ones and those of unused fields (30_encoding.md R81, R82). -/
def zeroMask (f : CmdFormat) : Command := reservedMask ||| unusedMask f

theorem and_zeroMask_eq_zero {w : Command} {f : CmdFormat} :
    w &&& zeroMask f = 0 ↔ w &&& reservedMask = 0 ∧ w &&& unusedMask f = 0 := by
  rw [zeroMask, BitVec.and_or_distrib_left]
  exact BitVec.or_eq_zero_iff

/-- A word of an opcode alone has none of them. -/
theorem opcode_and_zeroMask (op : BitVec 8) (f : CmdFormat) : packCommand op 0 0 0 0 0 0 0 &&& zeroMask f = 0 := by
  refine and_zeroMask_eq_zero.mpr ⟨packCommand_and_reservedMask .., ?_⟩
  rw [unusedMask_eq_pack, packCommand_and, packCommand_eq_zero]
  simp

theorem opcode_and_ones (op : BitVec 8) : op &&& 255#8 = op := BitVec.and_allOnes

theorem fieldOp_and (w v : Command) : fieldOp (w &&& v) = fieldOp w &&& fieldOp v := BitVec.extractLsb'_and

theorem fieldOp_or (w v : Command) : fieldOp (w ||| v) = fieldOp w ||| fieldOp v := BitVec.extractLsb'_or

/-- The opcode is no part of them. -/
theorem fieldOp_zeroMask (f : CmdFormat) : fieldOp (zeroMask f) = 0 := by
  rw [zeroMask, fieldOp_or, unusedMask_eq_pack, fieldOp_packCommand]
  decide

theorem or_and_self_right (x y : Command) : (x ||| y) &&& y = y := by
  ext i hi
  simpa using fun h => .inr h

/-- The match and mask of an opcode's row: the opcode, and every bit its format holds fixed (30_encoding.md R83). -/
def rowOf (op : BitVec 8) (f : CmdFormat) : Command × Command :=
  (packCommand op 0 0 0 0 0 0 0, packCommand 0xFF 0 0 0 0 0 0 0 ||| zeroMask f)

/-- A word matches a row when it has the row's opcode and zeros where the row's format wants them. -/
theorem matches_rowOf {w : Command} {op : BitVec 8} {f : CmdFormat} :
    w &&& (rowOf op f).2 = (rowOf op f).1 ↔ fieldOp w = op ∧ w &&& reservedMask = 0 ∧ w &&& unusedMask f = 0 := by
  rw [← and_zeroMask_eq_zero, rowOf]
  constructor
  · intro h
    constructor
    · simpa [fieldOp_and, fieldOp_or, fieldOp_zeroMask, opcode_and_ones] using congrArg fieldOp h
    · rw [← or_and_self_right (packCommand 0xFF 0 0 0 0 0 0 0) (zeroMask f), ← BitVec.and_assoc, h, opcode_and_zeroMask]
  · rintro ⟨rfl, hz⟩
    have hr := (and_zeroMask_eq_zero.mp hz).1
    rw [BitVec.and_or_distrib_left, hz, ← packCommand_fields hr, packCommand_and, fieldOp_packCommand]
    simp [opcode_and_ones]

/-- Every opcode there is, in order. -/
def opcodes : List (BitVec 8) := (List.range 256).map (BitVec.ofNat 8)

theorem mem_opcodes (op : BitVec 8) : op ∈ opcodes :=
  List.mem_map.mpr ⟨op.toNat, List.mem_range.mpr op.isLt, by simp⟩

/-- The table has one row for each assigned opcode. -/
theorem opcodeRows_eq : opcodeRows = opcodes.filterMap fun op => (opcodeFormat op).map (rowOf op) := by
  decide

theorem mem_opcodeRows {row : Command × Command} :
    row ∈ opcodeRows ↔ ∃ op f, opcodeFormat op = some f ∧ rowOf op f = row := by
  simp [opcodeRows_eq, mem_opcodes]

/-- Settles O4: the words that match a row are those with its opcode whose other fixed bits are zero, the legal words. -/
theorem legalWordsMatchTheOpcodeTable : Obligations.LegalWordsMatchTheOpcodeTable := by
  intro w
  rw [exists_decode_iff]
  constructor
  · rintro ⟨f, hf, hr, hu, hidx⟩
    exact ⟨⟨_, mem_opcodeRows.mpr ⟨_, f, hf, rfl⟩, matches_rowOf.mpr ⟨rfl, hr, hu⟩⟩, hidx⟩
  · rintro ⟨⟨row, hrow, hmatch⟩, hidx⟩
    obtain ⟨op, f, hf, rfl⟩ := mem_opcodeRows.mp hrow
    obtain ⟨rfl, hr, hu⟩ := matches_rowOf.mp hmatch
    exact ⟨f, hf, hr, hu, hidx⟩

/-! ## Illegal words -/

/-- The bits of one field, `n` of them from bit `k`, are all zero exactly when the field is. -/
theorem and_onesFrom_eq_zero {w : Command} {k n : Nat} (h : k + n ≤ 64) :
    w &&& ((BitVec.allOnes n).setWidth 64 <<< k) = 0#64 ↔ w.extractLsb' k n = 0#n := by
  constructor
  · intro hz
    apply BitVec.eq_of_getLsbD_eq
    intro i hi
    have hbit := congrArg (BitVec.getLsbD · (k + i)) hz
    have hk : k + i < 64 := by omega
    simpa [hi, hk] using hbit
  · intro hz
    apply BitVec.eq_of_getLsbD_eq
    intro j hj
    have hbit := congrArg (BitVec.getLsbD · (j - k)) hz
    by_cases hin : k ≤ j ∧ j - k < n
    · have hzero : w.getLsbD j = false := by simpa [hin.2, Nat.add_sub_cancel' hin.1] using hbit
      simp [hzero]
    · simp
      omega

/-- Z1, Z2 and Z3 make up the reserved bits (30_encoding.md R81). -/
theorem and_reservedMask_eq_zero {w : Command} :
    w &&& reservedMask = 0 ↔ w.extractLsb' 37 3 = 0#3 ∧ w.extractLsb' 28 4 = 0#4 ∧ w.extractLsb' 20 4 = 0#4 := by
  have hmask : reservedMask = (BitVec.allOnes 3).setWidth 64 <<< 37 ||| ((BitVec.allOnes 4).setWidth 64 <<< 28 |||
      (BitVec.allOnes 4).setWidth 64 <<< 20) := by decide
  rw [hmask, BitVec.and_or_distrib_left, BitVec.and_or_distrib_left, BitVec.ofNat_eq_ofNat, BitVec.or_eq_zero_iff,
    BitVec.or_eq_zero_iff, and_onesFrom_eq_zero (by decide), and_onesFrom_eq_zero (by decide),
    and_onesFrom_eq_zero (by decide)]

/-- A word has no field its format does not use exactly when the decoder's second mask finds nothing. -/
theorem not_unusedNonzero_iff {w : Command} (hr : w &&& reservedMask = 0) (f : CmdFormat) :
    ¬ UnusedNonzero f w ↔ w &&& unusedMask f = 0 := by
  rw [and_unusedMask_eq_zero hr]
  simp only [UnusedNonzero, ne_eq, not_or, not_and, not_not]

/-- The causes R88 lists are what keeps a word from being legal. -/
theorem not_illegalWord_iff (w : Command) : ¬ IllegalWord w ↔ ∃ f, LegalAs f w := by
  constructor
  · intro h
    simp only [IllegalWord, not_or, ne_eq, not_not] at h
    obtain ⟨hop, hz1, hz2, hz3, hunused, hidx⟩ := h
    obtain ⟨f, hf⟩ := Option.ne_none_iff_exists'.mp hop
    have hr := and_reservedMask_eq_zero.mpr ⟨hz1, hz2, hz3⟩
    exact ⟨f, hf, hr, (not_unusedNonzero_iff hr f).mp fun hu => hunused ⟨f, hf, hu⟩,
      fun h4 => not_lt.mp fun hlt => hidx ⟨h4, hlt⟩⟩
  · rintro ⟨f, hf, hr, hu, hidx⟩
    obtain ⟨hz1, hz2, hz3⟩ := and_reservedMask_eq_zero.mp hr
    rintro (hnone | hz | hz | hz | ⟨g, hg, hunused⟩ | ⟨h4, hlt⟩)
    · exact nomatch hnone.symm.trans hf
    · exact hz hz1
    · exact hz hz2
    · exact hz hz3
    · obtain rfl : f = g := Option.some.inj (hf.symm.trans hg)
      exact (not_unusedNonzero_iff hr f).mpr hu hunused
    · exact absurd (hidx h4) (not_le.mpr hlt)

/-- An idle block answers an illegal word BadParameter and does nothing else (30_encoding.md R88; log 6, log 7). -/
theorem step_of_undecodable {s : State} {w : Command} {rest : List Command} (hseq : s.seq = .idle)
    (hr : s.resetIn = none) (hc : s.commands = w :: rest) (hw : ¬ ∃ i, decode w = .ok i) :
    step s = .next { s with commands := rest, response := some (responseWord .badParameter 0) } := by
  cases hd : decode w with
  | ok i => exact absurd ⟨i, hd⟩ hw
  | error why =>
    rw [step, underReset_of_none hr]
    simp [advance, hseq, hc, runWord, hd, answerIllegal, raise, respond, acceptCommand]

/-- Settles O5: the illegal words are those that do not decode. -/
theorem illegalWordAnswersBadParameter : Obligations.IllegalWordAnswersBadParameter := by
  intro w
  have hiff : ¬ IllegalWord w ↔ ∃ i, decode w = .ok i := (not_illegalWord_iff w).trans (exists_decode_iff w).symm
  refine ⟨fun hw s rest hseq hr hc => step_of_undecodable hseq hr hc (mt hiff.mpr (not_not.mpr hw)), fun hw => ?_⟩
  obtain ⟨i, hi⟩ := hiff.mp hw
  exact ⟨i, hi, (encodeDecodeRoundTrip w i hi).2⟩

/-! ## Kind codes -/

/-- The codes R85 leaves open are GLOBAL3's or nobody's. -/
theorem decodeKind_of_open (cfg : Config) {k : BitVec 3} (h : k = 0 ∨ k = 6 ∨ k = 7) :
    decodeKind cfg k = if cfg.map.kindCodeGlobal3 = some k then .global3 else .unknown := by
  rcases h with rfl | rfl | rfl <;> rfl

/-- Settles O26: the fixed codes read off R85's table, and CFG0 gives GLOBAL3 no code. -/
theorem kindCodesDecode : Obligations.KindCodesDecode := by
  refine ⟨fun cfg => ⟨rfl, rfl, rfl, rfl, rfl, fun k hk => decodeKind_of_open cfg hk⟩, ?_⟩
  exact ⟨decodeKind_of_open cfg0 (.inl rfl), decodeKind_of_open cfg0 (.inr (.inl rfl)),
    decodeKind_of_open cfg0 (.inr (.inr rfl))⟩

end Sys2Proof.Machine

/-! PROOFS. The operand-register and device-context commands (40_operand_and_context.md R110 to R113). -/

namespace Sys2Proof.Machine

/-! ## The response word -/

/-- Bits 31:20 of a response word are zero (30_encoding.md R86). -/
theorem extractLsb'_responseWord_high (st : Status) (v : Half) : (responseWord st v).extractLsb' 20 12 = 0#12 := by
  refine extractLsb'_eq_zero fun i _ => ?_
  simp only [responseWord, BitVec.getLsbD_append, show ¬ 20 + i < 16 by omega, show ¬ 20 + i - 16 < 4 by omega,
    if_false, BitVec.getLsbD_zero]

/-! ## The commands -/

/-- Settles O28: the register written by `writeE`, which no answer touches. -/
theorem ldeWritesOneRegister : Obligations.LdeWritesOneRegister := fun s i imm =>
  ⟨respond .ok 0 (writeE i imm s), rfl, readE_writeE_same i imm s,
    fun _ hj => readE_writeE_of_ne (Ne.symm hj) imm s, rfl⟩

/-- Settles O29: the answer's word, field by field. -/
theorem rdeAnswersTheRegister : Obligations.RdeAnswersTheRegister := fun s i =>
  ⟨responseWord .ok (readE i s), rfl, responseCode_responseWord .ok _, responseValue_responseWord .ok _,
    extractLsb'_responseWord_high .ok _⟩

/-- An unsupported CTX_INIT leaves the context invalid (40_operand_and_context.md R112; 60_exceptions.md R276). -/
theorem exec_ctxInit_of_unsupported {s : State} (h : readE 0 s ∉ s.cfg.supportedIds) :
    exec .ctxInit s = .next (raise .notSupported { s with ctx := { s.ctx with valid := false } }) := by
  have hmem : s.cfg.supportedIds.contains (readE 0 s) = false := by simpa using h
  simp only [exec, execCtxInit, hmem, Bool.false_eq_true, if_false]

/-- Settles O30, by whether the identifier is supported. -/
theorem ctxInitBuildsTheContext : Obligations.CtxInitBuildsTheContext :=
  fun _ => ⟨exec_ctxInit_of_supported, exec_ctxInit_of_unsupported⟩

/-- CTX_RD 6 answers the valid bit (40_operand_and_context.md R113). -/
theorem exec_ctxRd_validBit (s : State) :
    exec (.ctxRd 6) s = .next (respond .ok (if s.ctx.valid then 1 else 0) s) := rfl

/-- CTX_RD 0 to 5 answer a value field, of a valid context only (40_operand_and_context.md R113, R114). -/
theorem exec_ctxRd_field {n : BitVec 4} (hn : n.toNat ≤ 5) (s : State) :
    exec (.ctxRd n) s = .next (if s.ctx.valid then respond .ok (contextField s.ctx n) s else raise .fail s) := by
  have hbit : n.toNat ≠ 6 := by omega
  have hlegal : ¬ 6 < n.toNat := by omega
  cases h : s.ctx.valid <;> simp [exec, execCtxRd, hbit, hlegal, h]

/-- Settles O31: the valid bit apart, then a value field by whether the context is valid. -/
theorem ctxRdAnswersTheField : Obligations.CtxRdAnswersTheField := by
  refine fun s => ⟨exec_ctxRd_validBit s, fun hvalid p hp => ?_, fun hinvalid n hn => ?_⟩
  · have hfield : p.1.toNat ≤ 5 ∧ contextField s.ctx p.1 = p.2 := by
      simp only [List.mem_cons, List.not_mem_nil, or_false] at hp
      rcases hp with rfl | rfl | rfl | rfl | rfl | rfl <;> simp [contextField]
    rw [exec_ctxRd_field hfield.1, hvalid, hfield.2]
    rfl
  · rw [exec_ctxRd_field hn, hinvalid]
    rfl

end Sys2Proof.Machine

/-! PROOFS. Which commands a missing context turns away (40_operand_and_context.md R114). -/

namespace Sys2Proof.Machine

/-! ## The commands that read a value field, on an invalid context -/

/-- The ATU commands (44_atu_engine.md R203). -/
theorem exec_latchedCommand_of_invalid {c : TableCmd} {s : State} (hc : needsContext c = true)
    (h : s.ctx.valid = false) : exec (latchedCommand c) s = .next (raise .fail s) := by
  rw [exec_latchedCommand, if_pos hc, requireContext_of_invalid h]

/-- The context is the first check of a port-configuration command (46_port_config.md R235). -/
theorem portChecks_of_invalid {s : State} (h : s.ctx.valid = false) (op : PortOp) (legal : Bool)
    (run : State → State) : portChecks op legal run s = raise .fail s := by
  simp [portChecks, portStatus, h]

/-- A command that reads a value field of an invalid context only answers Fail. -/
theorem exec_of_missing_context {i : Instr} {s : State} (hi : readsContext i = true) (h : s.ctx.valid = false) :
    exec i s = .next (raise .fail s) := by
  cases i with
  | lde | rde | ctxInit | smiRd | smiWr | smiFldWr | regRd | regWr | regFldWr | pvtWrite | pvtRead => cases hi
  | ctxRd n =>
    rw [exec_ctxRd_field (of_decide_eq_true hi), h]
    rfl
  | atuFlushAll => exact exec_latchedCommand_of_invalid (c := .atuFlushAll) rfl h
  | atuFlushUnlocked => exact exec_latchedCommand_of_invalid (c := .atuFlushUnlocked) rfl h
  | atuLoadPurge => exact exec_latchedCommand_of_invalid (c := .atuLoadPurge) rfl h
  | atuGetNext => exact exec_latchedCommand_of_invalid (c := .atuGetNext) rfl h
  | atuFlushAllDb => exact exec_latchedCommand_of_invalid (c := .atuFlushAllDb) rfl h
  | atuFlushUnlockedDb => exact exec_latchedCommand_of_invalid (c := .atuFlushUnlockedDb) rfl h
  | atuSvcViol => exact exec_latchedCommand_of_invalid (c := .atuSvcViol) rfl h
  | portState | portFrameMode | portVlanMembers | portHeaderMode | pcsForceSpeed | pcsForceDuplex | pcsForceFc
  | pcsForceLink | portJumbo | phyPower => exact congrArg Host.Outcome.next (portChecks_of_invalid h _ _ _)

/-! ## The statuses a piece of a command fails with -/

/-- A piece of a command that fails, if it does, as a Bus Transport operation fails (41_bus_transport.md R130). -/
def TransportPiece {α : Type} (m : Bus α) : Prop :=
  ∀ (s t : State) (st : Status), m s = (.error st, t) → st = .invalidAddress ∨ st = .timeout

/-- A piece that always gives a value. -/
theorem transportPiece_of_total {α : Type} {m : Bus α} (hm : ∀ s, ∃ a t, m s = (.ok a, t)) : TransportPiece m := by
  intro s t st h
  obtain ⟨a, t', e⟩ := hm s
  rw [e] at h
  cases h

theorem transportPiece_give {α : Type} (f : State → α) : TransportPiece fun s => give (f s) s :=
  transportPiece_of_total fun s => ⟨f s, s, rfl⟩

theorem TransportPiece.andThen {α β : Type} {m : Bus α} {k : α → Bus β} (hm : TransportPiece m)
    (hk : ∀ a, TransportPiece (k a)) : TransportPiece (andThen m k) := by
  intro s t st h
  rcases andThen_cases m k s with ⟨st', t', hfail, e⟩ | ⟨a, t', -, e⟩ <;> rw [e] at h
  · cases h
    exact hm s t st hfail
  · exact hk a t' t st h

theorem transportPiece_smiRead (dev : Nat) (reg : RegNum) : TransportPiece (smiRead dev reg) :=
  fun _ _ _ h => (smiRead_error h).imp_left And.left

theorem transportPiece_smiWrite (dev : Nat) (reg : RegNum) (v : Half) : TransportPiece (smiWrite dev reg v) :=
  fun _ _ _ h => (smiWrite_error h).imp_left And.left

theorem transportPiece_writeField (dev : Nat) (reg : RegNum) (off : BitVec 4) (len : BitVec 5) (val : Half) :
    TransportPiece (writeField dev reg off len val) :=
  (transportPiece_smiRead dev reg).andThen fun _ => transportPiece_smiWrite dev reg _

theorem transportPiece_writeAll (dev : Nat) (ws : List (RegNum × Half)) : TransportPiece (writeAll dev ws) := by
  induction ws with
  | nil => exact transportPiece_give fun _ => ()
  | cons w ws ih => exact (transportPiece_smiWrite dev w.1 w.2).andThen fun _ => ih

theorem transportPiece_readAll (dev : Nat) (rs : List (RegNum × ResultUse)) : TransportPiece (readAll dev rs) := by
  induction rs with
  | nil => exact transportPiece_give fun _ => ()
  | cons r rs ih =>
    refine (transportPiece_smiRead dev r.1).andThen fun v => TransportPiece.andThen
      (transportPiece_of_total fun s => ⟨_, _, rfl⟩) fun ended => ?_
    cases ended with
    | true => exact transportPiece_give fun _ => ()
    | false => exact ih

theorem transportPiece_tableResult (p : TablePlan) : TransportPiece (tableResult p) :=
  (transportPiece_readAll p.dev p.results).andThen fun _ => transportPiece_give (answerValue p.answer)

/-! ## The statuses a command answers -/

/-- From `s` to `t` a command has run, and if it has answered, then with a status of `sts`. -/
def Answers (sts : List Status) (s t : State) : Prop :=
  t.response = s.response ∨ ∃ st ∈ sts, ∃ v, t.response = some (responseWord st v)

/-- What a command answers whose only failures are those of its bus accesses (41_bus_transport.md R130;
44_atu_engine.md R186). -/
def transportAnswers : List Status := [.ok, .invalidAddress, .timeout]

theorem mem_transportAnswers {st : Status} (h : st = .invalidAddress ∨ st = .timeout) : st ∈ transportAnswers := by
  rcases h with rfl | rfl <;> decide

theorem answers_respond {sts : List Status} {st : Status} (h : st ∈ sts) (v : Half) (s : State) :
    Answers sts s (respond st v s) := .inr ⟨st, h, v, rfl⟩

/-- Accesses and stored results before the answer are no answer. -/
theorem Answers.after {sts : List Status} {regs : List (BitVec 4)} {s m t : State} (h : Stores regs s m)
    (k : Answers sts m t) : Answers sts s t := by
  unfold Answers at k ⊢
  rwa [h.response] at k

/-- Distinct statuses have distinct codes, so an answer with a status of `sts` shows no other (30_encoding.md R87). -/
theorem Answers.code_ne {sts : List Status} {s t : State} (h : Answers sts s t) (hs : s.response = none) {st : Status}
    (hst : st ∉ sts) {rw : Word} (hrw : t.response = some rw) : responseCode rw ≠ statusCode st := by
  rcases h with h | ⟨st', hmem, v, h⟩ <;> rw [h] at hrw
  · exact nomatch hs.symm.trans hrw
  · obtain rfl := Option.some.inj hrw
    rw [responseCode_responseWord]
    exact fun hcode => hst (statusCode_injective hcode ▸ hmem)

/-- A command's last piece and its answer. -/
theorem answers_finish {regs : List (BitVec 4)} {m : Bus Half} {s : State} (hm : TransportPiece m)
    (h : Stores regs s (m s).2) : Answers transportAnswers s (finish m s) := by
  rcases finish_cases m s with ⟨v, t, hrun, e⟩ | ⟨st, t, hrun, e⟩ <;> rw [hrun] at h <;> rw [e]
  · exact .after h (answers_respond (by decide) v t)
  · exact .after h (answers_respond (mem_transportAnswers (hm s t st hrun)) 0 t)

/-- A poll of a Busy-Wait answers a transport failure or the bound's Timeout, or goes on (44_atu_engine.md R186). -/
theorem answers_tableWait (c : TableCmd) (ph : WaitPhase) (k : Nat) (p : TablePlan) {f : State → State}
    (hf : ∀ t, Answers transportAnswers t (f t)) (s : State) :
    Answers transportAnswers s (tableWait c ph k p f s) := by
  have hread := (busPiece_smiRead p.dev p.opReg s).stores []
  rcases tableWait_cases c ph k p f s with ⟨st, t, h, e⟩ | ⟨v, t, h, -, e⟩ | ⟨v, t, h, -, -, e⟩ | ⟨v, t, h, -, -, e⟩ <;>
    rw [h] at hread <;> rw [e]
  · exact .after hread (answers_respond (mem_transportAnswers (transportPiece_smiRead _ _ s t st h)) 0 t)
  · exact .after hread (hf t)
  · exact .after hread (answers_respond (by decide) 0 t)
  · exact .after hread (.inl rfl)

theorem answers_runPostWait (c : TableCmd) (k : Nat) (p : TablePlan) (s : State) :
    Answers transportAnswers s (runPostWait c k p s) :=
  answers_tableWait c .post k p (fun t => answers_finish (transportPiece_tableResult p) (stores_tableResult p t)) s

theorem answers_runCommit (c : TableCmd) (p : TablePlan) (s : State) :
    Answers transportAnswers s (runCommit c p s) := by
  have hwrite := (busPiece_writeAll p.dev (p.commit s) s).stores []
  rcases runCommit_cases c p s with ⟨st, t, h, e⟩ | ⟨t, h, -, -, e⟩ | ⟨t, h, -, e⟩ <;> rw [h] at hwrite <;> rw [e]
  · exact .after hwrite (answers_respond (mem_transportAnswers (transportPiece_writeAll _ _ s t st h)) 0 t)
  · exact .after hwrite (answers_respond (by decide) 0 t)
  · exact .after hwrite (answers_runPostWait c 0 p t)

/-- A table command past its context check, in either wait, has no failure but the transport's and the bound's. -/
theorem answers_resume (c : TableCmd) (ph : WaitPhase) (k : Nat) (s : State) :
    Answers transportAnswers s (resume c ph k s) := by
  cases ph with
  | pre => exact answers_tableWait c .pre k _ (answers_runCommit c _) s
  | post => exact answers_runPostWait c k _ s

/-! ## The commands that read no value field -/

/-- What a command may answer that reads no value field of the context: Fail is not among it. -/
def contextFreeAnswers : List Status := .notSupported :: transportAnswers

theorem Answers.contextFree {s t : State} (h : Answers transportAnswers s t) : Answers contextFreeAnswers s t :=
  h.imp_right fun ⟨st, hst, hv⟩ => ⟨st, List.mem_cons_of_mem _ hst, hv⟩

/-- A command that is one piece of bus accesses (41_bus_transport.md R130). -/
theorem answers_busCommand {m : Bus Half} (hbus : BusPiece m) (hm : TransportPiece m) (s : State) :
    Answers contextFreeAnswers s (finish m s) := (answers_finish hm ((hbus s).stores [])).contextFree

/-- CTX_INIT answers Ok or NotSupported (40_operand_and_context.md R112). -/
theorem answers_exec_ctxInit {s t : State} (h : exec .ctxInit s = .next t) : Answers contextFreeAnswers s t := by
  by_cases hsup : readE 0 s ∈ s.cfg.supportedIds
  · rw [exec_ctxInit_of_supported hsup] at h
    cases h
    exact .inr ⟨.ok, by decide, 0, rfl⟩
  · rw [exec_ctxInit_of_unsupported hsup] at h
    cases h
    exact .inr ⟨.notSupported, by decide, 0, rfl⟩

/-- The one legal index of CTX_RD that names no value field is the valid bit's (40_operand_and_context.md R113). -/
theorem eq_six_of_no_context {n : BitVec 4} (hi : readsContext (.ctxRd n) = false) (hwf : (Instr.ctxRd n).wf = true) :
    n = 6 := by
  have hlow : ¬ n.toNat ≤ 5 := of_decide_eq_false hi
  have hhigh : n.toNat ≤ 6 := of_decide_eq_true hwf
  exact BitVec.eq_of_toNat_eq (show n.toNat = 6 by omega)

/-- No command that reads no value field of the context has a way to answer Fail (40_operand_and_context.md R114). -/
theorem answers_exec_of_no_context {i : Instr} {s t : State} (hi : readsContext i = false) (hwf : i.wf = true)
    (h : exec i s = .next t) : Answers contextFreeAnswers s t := by
  cases i with
  | lde | rde => cases h; exact .inr ⟨.ok, by decide, _, rfl⟩
  | ctxInit => exact answers_exec_ctxInit h
  | ctxRd n =>
    obtain rfl := eq_six_of_no_context hi hwf
    cases h
    exact answers_respond (by decide) _ s
  | smiRd | regRd => cases h; exact answers_busCommand (busPiece_smiRead _ _) (transportPiece_smiRead _ _) s
  | smiWr | regWr =>
    cases h
    exact answers_busCommand ((busPiece_smiWrite _ _ _).andThen fun _ => busPiece_give 0)
      ((transportPiece_smiWrite _ _ _).andThen fun _ => transportPiece_give fun _ => 0) s
  | smiFldWr | regFldWr =>
    cases h
    exact answers_busCommand ((busPiece_writeField _ _ _ _ _).andThen fun _ => busPiece_give 0)
      ((transportPiece_writeField _ _ _ _ _).andThen fun _ => transportPiece_give fun _ => 0) s
  | pvtWrite => cases h; exact (answers_resume .pvtWrite .pre 0 s).contextFree
  | pvtRead => cases h; exact (answers_resume .pvtRead .pre 0 s).contextFree
  | atuFlushAll | atuFlushUnlocked | atuLoadPurge | atuGetNext | atuFlushAllDb | atuFlushUnlockedDb | atuSvcViol
  | portState | portFrameMode | portVlanMembers | portHeaderMode | pcsForceSpeed | pcsForceDuplex | pcsForceFc
  | pcsForceLink | portJumbo | phyPower => cases hi

/-- Settles O32: the readers are turned away at their context check, and the others have no piece that fails with
Fail. -/
theorem missingContextAnswersFail : Obligations.MissingContextAnswersFail :=
  ⟨fun _ _ hi hvalid => exec_of_missing_context hi hvalid,
    fun _ _ _ hi hwf hs h _ hrw => (answers_exec_of_no_context hi hwf h).code_ne hs (by decide) hrw⟩

end Sys2Proof.Machine

/-! PROOFS. The bits of CTRL and DATA the block ignores never matter (41_bus_transport.md R132, R136, R137): two runs
from states that differ only in such bits go hand in hand. -/

namespace Sys2Proof.Machine

/-! ## States that differ only in ignored bits -/

/-- Two answers of CTRL that agree in the bits the block looks at (R132, R136). -/
def SameCtrl (cfg : Config) (a b : Word) : Prop :=
  a.getLsbD cfg.bus.busyBit = b.getLsbD cfg.bus.busyBit ∧ a.getLsbD cfg.bus.rvalidBit = b.getLsbD cfg.bus.rvalidBit

/-- Two answers of DATA that agree in the bits that reach the block (R137). -/
def SameData (a b : Word) : Prop := datum a = datum b

theorem sameAccess_readCtrl (c c' : Word) : SameAccess (.readCtrl c) (.readCtrl c') := trivial

theorem sameAccess_readData (d d' : Word) : SameAccess (.readData d) (.readData d') := trivial

section
variable {s s' : State}

/-- The state that is seen the same differs in its environment and its history only. -/
theorem SameSeen.eq_update (h : SameSeen s s') : s' = { s with env := s'.env, history := s'.history } := by
  obtain ⟨hcfg, he, hctx, hseq, hresponse, hdraws, hcommands, hresetIn, hresets, -, -⟩ := h
  cases s
  cases s'
  simp_all

/-- A change that neither looks at the bus side nor moves it keeps two states seen the same. -/
theorem SameSeen.map {f : State → State} (h : SameSeen s s') (hcfg : (f s).cfg = s.cfg) (henv : (f s).env = s.env)
    (hhistory : (f s).history = s.history)
    (hf : ∀ env history, f { s with env := env, history := history } =
      { f s with env := env, history := history }) : SameSeen (f s) (f s') := by
  have hs' : f s' = { f s with env := s'.env, history := s'.history } := (congrArg f h.eq_update).trans (hf _ _)
  rw [hs']
  refine ⟨rfl, rfl, rfl, rfl, rfl, rfl, rfl, rfl, rfl, ?_, ?_⟩
  · rw [hhistory]
    exact h.history
  · rw [hcfg, henv]
    exact h.env

/-- Accesses seen the same leave states seen the same. -/
theorem SameSeen.busMoved (h : SameSeen s s') {cs cs' ds ds' : List Word} {evs evs' : List BusEvent}
    (hctrl : List.Forall₂ (SameCtrl s.cfg) cs cs') (hdata : List.Forall₂ SameData ds ds')
    (hevs : List.Forall₂ SameAccess evs evs') : SameSeen (busMoved s cs ds evs) (busMoved s' cs' ds' evs') :=
  { h with
    history := List.rel_append h.history hevs
    env := ⟨cs, cs', ds, ds', rfl, rfl, hctrl, hdata⟩ }

theorem SameSeen.draw (h : SameSeen s s') :
    SameSeen { s with draws := s.draws + 1 } { s' with draws := s'.draws + 1 } :=
  h.map (f := fun s => { s with draws := s.draws + 1 }) rfl rfl rfl fun _ _ => rfl

theorem SameSeen.respond (h : SameSeen s s') (st : Status) (v : Half) :
    SameSeen (respond st v s) (respond st v s') := h.map rfl rfl rfl fun _ _ => rfl

theorem SameSeen.raise (h : SameSeen s s') (st : Status) : SameSeen (raise st s) (raise st s') := h.respond st 0

theorem SameSeen.withSeq (h : SameSeen s s') (q : Sequencer) : SameSeen { s with seq := q } { s' with seq := q } :=
  h.map (f := fun s => { s with seq := q }) rfl rfl rfl fun _ _ => rfl

theorem SameSeen.withCommands (h : SameSeen s s') (cs : List Command) :
    SameSeen { s with commands := cs } { s' with commands := cs } :=
  h.map (f := fun s => { s with commands := cs }) rfl rfl rfl fun _ _ => rfl

theorem SameSeen.runningAt (h : SameSeen s s') (w : Work) : SameSeen (runningAt w s) (runningAt w s') :=
  h.withSeq (.running w)

theorem SameSeen.useResult (h : SameSeen s s') (u : ResultUse) (v : Half) :
    SameSeen (useResult u v s) (useResult u v s') := by
  have hin := inside_useResult u v s
  refine h.map hin.cfg hin.env hin.history fun env history => ?_
  cases u with
  | unpackEntry =>
    simp only [Machine.useResult, unpackAtuData]
    split <;> rfl
  | store | storeDatabase | storeState | storeKind => rfl

/-! ## The three accesses -/

/-- A script that has run out is answered by a free value (20_memory.md R52; log 3). -/
theorem memReadCtrl_exhausted {ds : List Word} (h : s.env = .script [] ds) :
    memReadCtrl s = (Config.envAnswer s.draws,
      busMoved { s with draws := s.draws + 1 } [] ds [.readCtrl (Config.envAnswer s.draws)]) := by
  simp [memReadCtrl, h, Machine.busMoved, record]

theorem memReadData_exhausted {cs : List Word} (h : s.env = .script cs []) :
    memReadData s = (Config.envAnswer s.draws,
      busMoved { s with draws := s.draws + 1 } cs [] [.readData (Config.envAnswer s.draws)]) := by
  simp [memReadData, h, Machine.busMoved, record]

theorem SameSeen.memReadCtrl (h : SameSeen s s') :
    SameCtrl s.cfg (memReadCtrl s).1 (memReadCtrl s').1 ∧ SameSeen (memReadCtrl s).2 (memReadCtrl s').2 := by
  obtain ⟨cs, cs', ds, ds', henv, henv', hctrl, hdata⟩ := h.env
  cases hctrl with
  | nil =>
    rw [memReadCtrl_exhausted henv, memReadCtrl_exhausted henv', h.draws]
    exact ⟨⟨rfl, rfl⟩, h.draws ▸ h.draw.busMoved .nil hdata (.cons (sameAccess_readCtrl _ _) .nil)⟩
  | cons hword hrest =>
    rw [memReadCtrl_script henv, memReadCtrl_script henv']
    exact ⟨hword, h.busMoved hrest hdata (.cons (sameAccess_readCtrl _ _) .nil)⟩

theorem SameSeen.memReadData (h : SameSeen s s') :
    SameData (memReadData s).1 (memReadData s').1 ∧ SameSeen (memReadData s).2 (memReadData s').2 := by
  obtain ⟨cs, cs', ds, ds', henv, henv', hctrl, hdata⟩ := h.env
  cases hdata with
  | nil =>
    rw [memReadData_exhausted henv, memReadData_exhausted henv', h.draws]
    exact ⟨rfl, h.draws ▸ h.draw.busMoved hctrl .nil (.cons (sameAccess_readData _ _) .nil)⟩
  | cons hword hrest =>
    rw [memReadData_script henv, memReadData_script henv']
    exact ⟨hword, h.busMoved hctrl hrest (.cons (sameAccess_readData _ _) .nil)⟩

theorem SameSeen.memWriteCtrl (h : SameSeen s s') (w : Word) : SameSeen (memWriteCtrl w s) (memWriteCtrl w s') := by
  obtain ⟨cs, cs', ds, ds', henv, henv', hctrl, hdata⟩ := h.env
  rw [memWriteCtrl_script w henv, memWriteCtrl_script w henv']
  exact h.busMoved hctrl hdata (.cons rfl .nil)

end

/-! ## Pieces of a command -/

/-- Two outcomes of a piece: the same value or status, in states seen the same. -/
def SameOutcome {α : Type} (p p' : Except Status α × State) : Prop := p'.1 = p.1 ∧ SameSeen p.2 p'.2

/-- A piece of a command that sees no ignored bit. -/
def BlindPiece {α : Type} (m : Bus α) : Prop := ∀ s s' : State, SameSeen s s' → SameOutcome (m s) (m s')

theorem SameOutcome.cases {α : Type} {p p' : Except Status α × State} (h : SameOutcome p p') :
    (∃ a t t', p = (.ok a, t) ∧ p' = (.ok a, t') ∧ SameSeen t t') ∨
    (∃ st t t', p = (.error st, t) ∧ p' = (.error st, t') ∧ SameSeen t t') := by
  obtain ⟨hresult, ht⟩ := h
  cases hp : p.1 with
  | ok a => exact .inl ⟨a, p.2, p'.2, Prod.ext hp rfl, Prod.ext (hresult.trans hp) rfl, ht⟩
  | error st => exact .inr ⟨st, p.2, p'.2, Prod.ext hp rfl, Prod.ext (hresult.trans hp) rfl, ht⟩

theorem blindPiece_give {α : Type} (a : α) : BlindPiece (give a) := fun _ _ h => ⟨rfl, h⟩

theorem BlindPiece.andThen {α β : Type} {m : Bus α} {k : α → Bus β} (hm : BlindPiece m)
    (hk : ∀ a, BlindPiece (k a)) : BlindPiece (andThen m k) := by
  intro s s' h
  rcases (hm s s' h).cases with ⟨a, t, t', e, e', ht⟩ | ⟨st, t, t', e, e', ht⟩
  · rw [andThen_of_ok e, andThen_of_ok e']
    exact hk a t t' ht
  · rw [andThen_of_error e, andThen_of_error e']
    exact ⟨rfl, ht⟩

/-- A piece that looks something up in the configuration. -/
theorem BlindPiece.of_cfg {α : Type} {m : Config → Bus α} (hm : ∀ cfg, BlindPiece (m cfg)) :
    BlindPiece fun s => m s.cfg s := by
  intro s s' h
  show SameOutcome (m s.cfg s) (m s'.cfg s')
  rw [h.cfg]
  exact hm s.cfg s s' h

/-- The busy poll looks at the busy bit only (R132). -/
theorem blindPiece_pollBusyFrom (n : Nat) : BlindPiece (pollBusyFrom n) := by
  induction n with
  | zero => exact fun _ _ h => ⟨rfl, h⟩
  | succ n ih =>
    intro s s' h
    obtain ⟨⟨hbusy, -⟩, hread⟩ := h.memReadCtrl
    rw [pollBusyFrom, pollBusyFrom, h.cfg, ← hbusy]
    split
    · exact ih _ _ hread
    · exact ⟨rfl, hread⟩

/-- The read-valid poll looks at the read-valid bit only (R136). -/
theorem blindPiece_pollValidFrom (n : Nat) : BlindPiece (pollValidFrom n) := by
  induction n with
  | zero => exact fun _ _ h => ⟨rfl, h⟩
  | succ n ih =>
    intro s s' h
    obtain ⟨⟨-, hvalid⟩, hread⟩ := h.memReadCtrl
    rw [pollValidFrom, pollValidFrom, h.cfg, ← hvalid]
    split
    · exact ⟨rfl, hread⟩
    · exact ih _ _ hread

theorem blindPiece_pollBusy : BlindPiece pollBusy :=
  .of_cfg (m := fun cfg => pollBusyFrom cfg.bus.busyPollMax) fun _ => blindPiece_pollBusyFrom _

theorem blindPiece_pollValid : BlindPiece pollValid :=
  .of_cfg (m := fun cfg => pollValidFrom cfg.bus.rvalidPollMax) fun _ => blindPiece_pollValidFrom _

theorem blindPiece_checkAddress (dev : Nat) : BlindPiece (checkAddress dev) := by
  intro s s' h
  rw [checkAddress, checkAddress, h.cfg]
  split <;> exact ⟨rfl, h⟩

theorem blindPiece_issue (w : Config → Word) : BlindPiece fun s => issue (w s.cfg) s :=
  .of_cfg (m := fun cfg => issue (w cfg)) fun cfg _ _ h => ⟨rfl, h.memWriteCtrl (w cfg)⟩

/-- Only the datum reaches the block (R137). -/
theorem blindPiece_fetchData : BlindPiece fetchData := fun _ _ h =>
  ⟨congrArg Except.ok h.memReadData.1.symm, h.memReadData.2⟩

theorem blindPiece_smiRead (dev : Nat) (reg : RegNum) : BlindPiece (smiRead dev reg) :=
  (blindPiece_checkAddress dev).andThen fun _ => blindPiece_pollBusy.andThen fun _ =>
    (blindPiece_issue fun cfg => cwRead cfg dev reg).andThen fun _ =>
      blindPiece_pollValid.andThen fun _ => blindPiece_fetchData

theorem blindPiece_smiWrite (dev : Nat) (reg : RegNum) (v : Half) : BlindPiece (smiWrite dev reg v) :=
  (blindPiece_checkAddress dev).andThen fun _ => blindPiece_pollBusy.andThen fun _ =>
    blindPiece_issue fun cfg => cwWrite cfg dev reg v

theorem blindPiece_writeField (dev : Nat) (reg : RegNum) (off : BitVec 4) (len : BitVec 5) (val : Half) :
    BlindPiece (writeField dev reg off len val) :=
  (blindPiece_smiRead dev reg).andThen fun _ => blindPiece_smiWrite dev reg _

theorem blindPiece_writeAll (dev : Nat) (ws : List (RegNum × Half)) : BlindPiece (writeAll dev ws) := by
  induction ws with
  | nil => exact blindPiece_give ()
  | cons w ws ih => exact (blindPiece_smiWrite dev w.1 w.2).andThen fun _ => ih

/-- A result is stored the same, and ends the reading or not (44_atu_engine.md R200, R202). -/
theorem blindPiece_useResult (u : ResultUse) (v : Half) :
    BlindPiece fun s => (.ok (endsReadBack s.cfg u v), useResult u v s) := fun _ _ h =>
  ⟨congrArg (fun cfg => Except.ok (endsReadBack cfg u v)) h.cfg, h.useResult u v⟩

theorem blindPiece_readAll (dev : Nat) (rs : List (RegNum × ResultUse)) : BlindPiece (readAll dev rs) := by
  induction rs with
  | nil => exact blindPiece_give ()
  | cons r rs ih =>
    refine (blindPiece_smiRead dev r.1).andThen fun v => (blindPiece_useResult r.2 v).andThen fun ended => ?_
    cases ended with
    | true => exact blindPiece_give ()
    | false => exact ih

theorem blindPiece_tableResult (p : TablePlan) : BlindPiece (tableResult p) := by
  refine (blindPiece_readAll p.dev p.results).andThen fun _ s s' h => ⟨?_, h⟩
  cases hp : p.answer with
  | none => rfl
  | some i => exact congrArg Except.ok (readE_congr h.e i)

theorem blindPiece_powerBits (dev : Nat) (v : Half) (bits : List PowerBit) : BlindPiece (powerBits dev v bits) := by
  induction bits with
  | nil => exact blindPiece_give ()
  | cons b bits ih =>
    exact (BlindPiece.of_cfg
      (m := fun cfg => writeField dev (regNumber cfg b.reg) b.off b.len (if v = 0 then b.down else b.up))
      fun _ => blindPiece_writeField _ _ _ _ _).andThen fun _ => ih

/-! ## Commands -/

section
variable {s s' : State}

theorem BlindPiece.finish {m : Bus Half} (hm : BlindPiece m) (h : SameSeen s s') :
    SameSeen (finish m s) (finish m s') := by
  rcases (hm s s' h).cases with ⟨v, t, t', e, e', ht⟩ | ⟨st, t, t', e, e', ht⟩ <;>
    simp only [Machine.finish, e, e']
  · exact ht.respond .ok v
  · exact ht.raise st

/-- A poll of a Busy-Wait goes on the same (44_atu_engine.md R186). -/
theorem SameSeen.tableWait (h : SameSeen s s') (c : TableCmd) (ph : WaitPhase) (k : Nat) (p : TablePlan)
    {f : State → State} (hf : ∀ t t', SameSeen t t' → SameSeen (f t) (f t')) :
    SameSeen (tableWait c ph k p f s) (tableWait c ph k p f s') := by
  rcases (blindPiece_smiRead p.dev p.opReg s s' h).cases with ⟨v, t, t', e, e', ht⟩ | ⟨st, t, t', e, e', ht⟩
  · cases hv : v.getLsbD 15 with
    | false =>
      rw [tableWait_of_ready e hv, tableWait_of_ready e' hv]
      exact hf t t' ht
    | true =>
      cases hw : waitExhausted t.cfg (k + 1) with
      | false =>
        rw [tableWait_of_busy e hv hw, tableWait_of_busy e' hv (ht.cfg ▸ hw)]
        exact ht.withSeq _
      | true =>
        rw [tableWait_of_exhausted e hv hw, tableWait_of_exhausted e' hv (ht.cfg ▸ hw)]
        exact ht.raise .timeout
  · simp only [Machine.tableWait, e, e']
    exact ht.raise st

theorem SameSeen.runPostWait (h : SameSeen s s') (c : TableCmd) (k : Nat) (p : TablePlan) :
    SameSeen (runPostWait c k p s) (runPostWait c k p s') :=
  h.tableWait c .post k p fun _ _ ht => (blindPiece_tableResult p).finish ht

/-- What a table command writes comes from the operand registers, the context and the configuration
(44_atu_engine.md R187). -/
theorem SameSeen.commit (h : SameSeen s s') (cfg : Config) (c : TableCmd) :
    (tablePlan cfg c).commit s' = (tablePlan cfg c).commit s := by
  rw [h.eq_update]
  cases c <;> rfl

theorem SameSeen.runCommit (h : SameSeen s s') (c : TableCmd) (cfg : Config) :
    SameSeen (runCommit c (tablePlan cfg c) s) (runCommit c (tablePlan cfg c) s') := by
  have hwrite := blindPiece_writeAll (tablePlan cfg c).dev ((tablePlan cfg c).commit s) s s' h
  rcases hwrite.cases with ⟨_, t, t', e, e', ht⟩ | ⟨st, t, t', e, e', ht⟩ <;>
    simp only [Machine.runCommit, h.commit, e, e']
  · rw [ht.cfg]
    split
    · exact ht.runPostWait c 0 _
    · exact ht.respond .ok 0
  · exact ht.raise st

theorem SameSeen.resume (h : SameSeen s s') (c : TableCmd) (ph : WaitPhase) (k : Nat) :
    SameSeen (resume c ph k s) (resume c ph k s') := by
  unfold Machine.resume
  rw [h.cfg]
  cases ph with
  | pre => exact h.tableWait c .pre k _ fun _ _ ht => ht.runCommit c s.cfg
  | post => exact h.runPostWait c k _

/-- The checks of a port-configuration command look at the context and the configuration (46_port_config.md R235,
R250). -/
theorem SameSeen.portChecks (h : SameSeen s s') {run : State → State} (hrun : SameSeen (run s) (run s'))
    (op : PortOp) (legal : Bool) : SameSeen (portChecks op legal run s) (portChecks op legal run s') := by
  have hstatus : portStatus op legal s' = portStatus op legal s := by simp only [portStatus, h.ctx, h.cfg]
  unfold Machine.portChecks
  rw [hstatus]
  cases portStatus op legal s with
  | ok => exact hrun
  | fail | invalidAddress | timeout | badParameter | notSupported => exact h.raise _

theorem SameSeen.writeDescribed (h : SameSeen s s') (d : FieldDesc) (port : BitVec 8) (v answer : Half) :
    SameSeen (writeDescribed d port v answer s) (writeDescribed d port v answer s') := by
  unfold Machine.writeDescribed
  rw [h.cfg]
  exact ((blindPiece_writeField _ _ _ _ _).andThen fun _ => blindPiece_give answer).finish h

theorem SameSeen.pcfg (h : SameSeen s s') {d d' : FieldDesc} (hd : d' = d) (op : PortOp) (port : BitVec 8) (v : Half) :
    SameSeen (pcfg op d port v s) (pcfg op d' port v s') := by
  subst hd
  exact h.portChecks (h.writeDescribed _ port v 0) op _

theorem SameSeen.restorePage (h : SameSeen s s') (dev : Nat) (first : Status) :
    SameSeen (restorePage dev first s) (restorePage dev first s') := by
  obtain ⟨hstatus, ht⟩ := blindPiece_smiWrite dev s.cfg.phy.pageReg s.cfg.phy.pageDefault s s' h
  rw [restorePage_eq, restorePage_eq, h.cfg, hstatus]
  exact ht.respond _ 0

theorem SameSeen.powerSequence (h : SameSeen s s') (dev : Nat) (v : Half) :
    SameSeen (powerSequence dev v s) (powerSequence dev v s') := by
  rcases (blindPiece_smiWrite dev s.cfg.phy.pageReg s.cfg.phy.powerPage s s' h).cases with
    ⟨_, t, t', e, e', ht⟩ | ⟨st, t, t', e, e', ht⟩ <;> simp only [Machine.powerSequence, h.cfg, e, e']
  · obtain ⟨hstatus, hbits⟩ := blindPiece_powerBits dev v t.cfg.phy.powerBits t t' ht
    rw [ht.cfg, hstatus]
    exact hbits.restorePage dev _
  · exact ht.raise st

/-! ## Steps -/

/-- Two steps that end in states seen the same. -/
def SameNext (o o' : Host.Outcome State Fault Refusal) : Prop := ∃ t t', o = .next t ∧ o' = .next t' ∧ SameSeen t t'

theorem SameSeen.next {t t' : State} (h : SameSeen t t') : SameNext (.next t) (.next t') := ⟨t, t', rfl, rfl, h⟩

theorem SameSeen.exec_latchedCommand (h : SameSeen s s') (c : TableCmd) :
    SameNext (exec (latchedCommand c) s) (exec (latchedCommand c) s') := by
  rw [Machine.exec_latchedCommand, Machine.exec_latchedCommand]
  refine SameSeen.next ?_
  unfold requireContext
  rw [h.ctx]
  repeat' split
  · exact h.resume c .pre 0
  · exact h.raise .fail
  · exact h.resume c .pre 0

/-- A command sees no ignored bit. -/
theorem SameSeen.exec (h : SameSeen s s') (i : Instr) : SameNext (exec i s) (exec i s') := by
  cases i with
  | lde n imm => exact (h.map (f := fun s => Machine.respond .ok 0 (writeE n imm s)) rfl rfl rfl fun _ _ => rfl).next
  | rde n =>
    have hanswer : Machine.exec (.rde n) s' = .next (Machine.respond .ok (readE n s) s') := by
      rw [← readE_congr h.e n]; rfl
    exact hanswer ▸ (h.respond .ok (readE n s)).next
  | ctxInit =>
    obtain ⟨st, ctx, hctx⟩ := exists_exec_ctxInit s
    rw [hctx s rfl rfl rfl, hctx s' h.cfg h.e h.ctx]
    exact (h.map (f := fun s => Machine.respond st 0 { s with ctx := ctx }) rfl rfl rfl fun _ _ => rfl).next
  | ctxRd n =>
    obtain ⟨st, v, hv⟩ := exists_exec_ctxRd n s
    rw [hv s rfl, hv s' h.ctx]
    exact (h.respond st v).next
  | smiRd dev reg => exact ((blindPiece_smiRead _ _).finish h).next
  | smiWr => exact (((blindPiece_smiWrite _ _ _).andThen fun _ => blindPiece_give 0).finish h).next
  | smiFldWr => exact (((blindPiece_writeField _ _ _ _ _).andThen fun _ => blindPiece_give 0).finish h).next
  | regRd =>
    simp only [Machine.exec, execRegRd, h.cfg]
    exact ((blindPiece_smiRead _ _).finish h).next
  | regWr =>
    simp only [Machine.exec, execRegWr, h.cfg]
    exact (((blindPiece_smiWrite _ _ _).andThen fun _ => blindPiece_give 0).finish h).next
  | regFldWr =>
    simp only [Machine.exec, execRegFldWr, h.cfg]
    exact (((blindPiece_writeField _ _ _ _ _).andThen fun _ => blindPiece_give 0).finish h).next
  | atuFlushAll => exact h.exec_latchedCommand .atuFlushAll
  | atuFlushUnlocked => exact h.exec_latchedCommand .atuFlushUnlocked
  | atuLoadPurge => exact h.exec_latchedCommand .atuLoadPurge
  | atuGetNext => exact h.exec_latchedCommand .atuGetNext
  | atuFlushAllDb => exact h.exec_latchedCommand .atuFlushAllDb
  | atuFlushUnlockedDb => exact h.exec_latchedCommand .atuFlushUnlockedDb
  | atuSvcViol => exact h.exec_latchedCommand .atuSvcViol
  | pvtWrite => exact h.exec_latchedCommand .pvtWrite
  | pvtRead => exact h.exec_latchedCommand .pvtRead
  | portState | portFrameMode | portVlanMembers | portHeaderMode | pcsForceSpeed | pcsForceDuplex | pcsForceFc
  | pcsForceLink => exact (h.pcfg (by rw [h.cfg]) _ _ _).next
  | portJumbo =>
    simp only [Machine.exec, execPortJumbo, h.cfg]
    exact (h.portChecks (h.writeDescribed _ _ _ _) _ _).next
  | phyPower port v =>
    simp only [Machine.exec, execPhyPower, h.cfg]
    exact (h.portChecks (h.powerSequence _ _) _ _).next

/-! ## One access -/

theorem SameSeen.commitTasks (h : SameSeen s s') (c : TableCmd) : commitTasks c s' = commitTasks c s := by
  simp only [Machine.commitTasks, h.cfg, h.commit]

/-- What an operation leads to (44_atu_engine.md R186, R202). -/
theorem SameSeen.proceed (h : SameSeen s s') (w : Work) : SameSeen (proceed w s) (proceed w s') := by
  unfold Machine.proceed
  rw [h.cfg]
  split
  · exact (h.useResult _ _).runningAt _
  · next c ph k _ _ =>
    have hwait := h.withSeq (.waiting c ph (k + 1))
    rw [h.cfg] at hwait
    rw [h.commitTasks]
    repeat' split
    · exact h.runningAt _
    · exact hwait
    · exact h.runningAt _
    · exact h.runningAt _
  · exact h.runningAt _
  · exact h.runningAt _

/-- An access of a Bus Transaction (R132 to R137). -/
theorem SameSeen.makeAccess (h : SameSeen s s') (tr : Transaction) (w : Work) :
    SameSeen (makeAccess tr w s) (makeAccess tr w s') := by
  obtain ⟨⟨hbusy, hvalid⟩, hread⟩ := h.memReadCtrl
  obtain ⟨hdatum, hdata⟩ := h.memReadData
  unfold Machine.makeAccess
  rw [h.cfg, ← hbusy, ← hvalid]
  split
  case h_1 | h_4 => exact h.runningAt _
  case h_2 | h_5 => repeat' split
                    all_goals exact hread.runningAt _
  case h_3 =>
    split
    · exact (h.memWriteCtrl _).runningAt _
    · exact (h.memWriteCtrl _).proceed _
  case h_6 =>
    have hlast : (Machine.memReadData s').1.extractLsb' 0 16 = (Machine.memReadData s).1.extractLsb' 0 16 := hdatum.symm
    rw [hlast]
    exact hdata.proceed _

theorem SameSeen.deliver (h : SameSeen s s') (w : Work) : SameNext (deliver w s) (deliver w s') := by
  unfold Machine.deliver
  split
  · exact h.exec _
  · exact (h.respond _ _).next
  · rw [readE_congr h.e]
    exact (h.respond _ _).next
  · exact (h.respond _ _).next
  · exact (h.respond _ _).next

theorem SameSeen.continueWork (h : SameSeen s s') (w : Work) : SameNext (continueWork w s) (continueWork w s') := by
  unfold Machine.continueWork
  rw [h.cfg]
  split
  · exact (h.makeAccess _ _).next
  · exact h.deliver _

/-! ## The machine's step -/

/-- What the block does while no reset is asserted. -/
theorem SameSeen.advance (h : SameSeen s s') : SameNext (advance s) (advance s') := by
  unfold Machine.advance
  rw [h.seq, h.commands]
  split
  · exact (h.resume _ _ _).next
  · exact h.next
  · next w rest _ _ =>
    have hacc : SameSeen (acceptCommand rest s) (acceptCommand rest s') := h.map rfl rfl rfl fun _ _ => rfl
    unfold runWord
    cases decode w with
    | ok i => exact hacc.exec i
    | error why => exact (hacc.raise .badParameter).next
  · exact h.continueWork _

theorem SameSeen.resetBlock (h : SameSeen s s') : SameSeen (resetBlock s) (resetBlock s') :=
  h.map (resetBlock_cfg s) (resetBlock_env s) (resetBlock_history s) fun _ _ => rfl

/-- An access made again (70_reset_and_hazards.md R296). -/
theorem SameSeen.replayAccess (h : SameSeen s s') {ev ev' : BusEvent} (hev : SameAccess ev ev') :
    SameSeen (replayAccess s ev) (replayAccess s' ev') := by
  unfold SameAccess at hev
  split at hev
  · exact h.memReadCtrl.2
  · exact hev ▸ h.memWriteCtrl _
  · exact h.memReadData.2
  · exact hev.elim

theorem SameSeen.foldl_replayAccess (h : SameSeen s s') {evs evs' : List BusEvent}
    (hevs : List.Forall₂ SameAccess evs evs') :
    SameSeen (evs.foldl Machine.replayAccess s) (evs'.foldl Machine.replayAccess s') := by
  induction hevs generalizing s s' with
  | nil => exact h
  | cons hev _ ih => exact ih (h.replayAccess hev)

/-- The reset input cuts the two at the same access (70_reset_and_hazards.md R296; log 8). -/
theorem SameSeen.resetWithin (h : SameSeen s s') {t t' : State} (ht : SameSeen t t') (n : Nat) :
    SameSeen (resetWithin n s t) (resetWithin n s' t') := by
  unfold Machine.resetWithin
  rw [← h.history.length_eq, ← ht.history.length_eq]
  split
  · exact ht.map (f := withReset (some (n - (t.history.length - s.history.length)))) rfl rfl rfl fun _ _ => rfl
  · have hevs := List.forall₂_take n (List.forall₂_drop s.history.length ht.history)
    have hmade := (h.foldl_replayAccess hevs).resetBlock
    unfold abandon
    rw [ht.commands, ← h.history.length_eq]
    exact hmade.withCommands t.commands

theorem SameSeen.underReset (h : SameSeen s s') {go : State → Host.Outcome State Fault Refusal}
    (hgo : SameNext (go s) (go s')) : SameNext (underReset go s) (underReset go s') := by
  obtain ⟨t, t', e, e', ht⟩ := hgo
  have hquiet : isQuiet s' = isQuiet s := by simp only [isQuiet, h.seq, h.commands]
  unfold Machine.underReset
  rw [h.resetIn, hquiet, e, e']
  split
  · exact ht.next
  · split
    · exact h.resetBlock.next
    · exact (h.resetWithin ht _).next

end

/-- Settles O60: two states seen the same take the same step, for each access of it sees the same. -/
theorem ignoredBitsNeverMatter : Obligations.IgnoredBitsNeverMatter := by
  intro s s' t h ht
  obtain ⟨u, t', hu, hu', hseen⟩ := h.underReset h.advance
  obtain rfl : u = t := by simpa [step, hu] using ht
  exact ⟨t', hu', hseen⟩

end Sys2Proof.Machine

/-! PROOFS. The polls of the Bus Transport: how many reads of CTRL each makes, and where it stops (41_bus_transport.md
R132, R136). -/

namespace Sys2Proof.Machine

/-- A poll of at most `n` reads of CTRL from `s` has ended in `r`: at the first read whose answer is `done`, or with
Timeout after `n` reads without one. -/
def PollEnds (done : Word → Bool) (n : Nat) (s : State) (r : Except Status Unit × State) : Prop :=
  ∃ reads : List Word, r.2.history = s.history ++ reads.map .readCtrl ∧
    ((r.1 = .ok () ∧ reads.length ≤ n ∧ ∃ before last, reads = before ++ [last] ∧
        (∀ x ∈ before, done x = false) ∧ done last = true) ∨
     (r.1 = .error .timeout ∧ reads.length = n ∧ ∀ x ∈ reads, done x = false))

section
variable {done : Word → Bool} {n : Nat} {s : State} {r : Except Status Unit × State}

/-- A poll with no read left has timed out. -/
theorem pollEnds_zero (done : Word → Bool) (s : State) : PollEnds done 0 s (.error .timeout, s) :=
  ⟨[], by simp, .inr ⟨rfl, rfl, by simp⟩⟩

/-- A read that shows what the poll waits for ends it. -/
theorem pollEnds_of_done (h : done (memReadCtrl s).1 = true) : PollEnds done (n + 1) s (.ok (), (memReadCtrl s).2) :=
  ⟨[(memReadCtrl s).1], memReadCtrl_history s, .inl ⟨rfl, by simp, [], _, rfl, by simp, h⟩⟩

/-- A read that does not show it leaves the rest of the poll. -/
theorem PollEnds.cons (h : done (memReadCtrl s).1 = false) (hrest : PollEnds done n (memReadCtrl s).2 r) :
    PollEnds done (n + 1) s r := by
  obtain ⟨reads, hhistory, hend⟩ := hrest
  refine ⟨(memReadCtrl s).1 :: reads, by rw [hhistory, memReadCtrl_history]; simp, ?_⟩
  rcases hend with ⟨hr, hlen, before, last, rfl, hbefore, hlast⟩ | ⟨hr, hlen, hreads⟩
  · exact .inl ⟨hr, by simpa using hlen, (memReadCtrl s).1 :: before, last, rfl, by simpa [h] using hbefore, hlast⟩
  · exact .inr ⟨hr, by simpa using hlen, by simpa [h] using hreads⟩

/-- A poll that may read at all reads at least once, and never more than it may. -/
theorem PollEnds.bounds (hn : 1 ≤ n) (h : PollEnds done n s r) :
    ∃ reads : List Word, r.2.history = s.history ++ reads.map .readCtrl ∧ 1 ≤ reads.length ∧ reads.length ≤ n ∧
      ((r.1 = .ok () ∧ ∃ before last, reads = before ++ [last] ∧ (∀ x ∈ before, done x = false) ∧ done last = true) ∨
       (r.1 = .error .timeout ∧ reads.length = n ∧ ∀ x ∈ reads, done x = false)) := by
  obtain ⟨reads, hhistory, ⟨hr, hlen, before, last, hreads, hends⟩ | ⟨hr, hlen, hreads⟩⟩ := h
  · exact ⟨reads, hhistory, by simp [hreads], hlen, .inl ⟨hr, before, last, hreads, hends⟩⟩
  · exact ⟨reads, hhistory, hlen ▸ hn, hlen.le, .inr ⟨hr, hlen, hreads⟩⟩

end

/-- The busy poll waits for the busy bit to be clear (R132). -/
theorem pollEnds_pollBusyFrom (n : Nat) (s : State) :
    PollEnds (fun x => !x.getLsbD s.cfg.bus.busyBit) n s (pollBusyFrom n s) := by
  induction n generalizing s with
  | zero => exact pollEnds_zero _ s
  | succ n ih =>
    have hrest := ih (memReadCtrl s).2
    rw [(busOnly_memReadCtrl s).cfg] at hrest
    rw [pollBusyFrom]
    cases hbusy : (memReadCtrl s).1.getLsbD s.cfg.bus.busyBit with
    | true => exact hrest.cons (by simp [hbusy])
    | false => exact pollEnds_of_done (by simp [hbusy])

/-- The read-valid poll waits for the read-valid bit to be set (R136). -/
theorem pollEnds_pollValidFrom (n : Nat) (s : State) :
    PollEnds (fun x => x.getLsbD s.cfg.bus.rvalidBit) n s (pollValidFrom n s) := by
  induction n generalizing s with
  | zero => exact pollEnds_zero _ s
  | succ n ih =>
    have hrest := ih (memReadCtrl s).2
    rw [(busOnly_memReadCtrl s).cfg] at hrest
    rw [pollValidFrom]
    cases hvalid : (memReadCtrl s).1.getLsbD s.cfg.bus.rvalidBit with
    | true => exact pollEnds_of_done hvalid
    | false => exact hrest.cons hvalid

/-- Settles O13, from the poll with `n` reads left, by induction on `n`. -/
theorem busyPollBound : Obligations.BusyPollBound := by
  intro s hmax
  simpa [pollBusy] using (pollEnds_pollBusyFrom s.cfg.bus.busyPollMax s).bounds hmax

/-- Settles O14, from the poll with `m` reads left, by induction on `m`. -/
theorem readValidPollBound : Obligations.ReadValidPollBound := fun s hmax =>
  (pollEnds_pollValidFrom s.cfg.bus.rvalidPollMax s).bounds (Nat.one_le_of_lt hmax)

end Sys2Proof.Machine

/-! PROOFS. The address check, the control word, and the register accesses that complete (41_bus_transport.md R131, R133
to R135, R140, R141). -/

namespace Sys2Proof.Machine

/-! ## The address check -/

section
variable {s : State} {dev : Nat}

theorem addressLegal_of_lt {cfg : Config} (h : cfg.bus.WF) (hdev : dev < 32) : addressLegal cfg dev = true := by
  simpa [addressLegal_eq h] using hdev

theorem addressLegal_of_ge {cfg : Config} (h : cfg.bus.WF) (hdev : 32 ≤ dev) : addressLegal cfg dev = false := by
  simpa [addressLegal_eq h] using hdev

/-- An operation whose address fails the check does nothing (R131). -/
theorem smiRead_of_illegal (h : addressLegal s.cfg dev = false) (reg : RegNum) :
    smiRead dev reg s = (.error .invalidAddress, s) := andThen_of_error (checkAddress_of_illegal h)

theorem smiWrite_of_illegal (h : addressLegal s.cfg dev = false) (reg : RegNum) (v : Half) :
    smiWrite dev reg v s = (.error .invalidAddress, s) := andThen_of_error (checkAddress_of_illegal h)

theorem writeField_of_illegal (h : addressLegal s.cfg dev = false) (reg : RegNum) (off : BitVec 4) (len : BitVec 5)
    (val : Half) : writeField dev reg off len val s = (.error .invalidAddress, s) :=
  andThen_of_error (smiRead_of_illegal h reg)

/-- An operation whose address passes the check does not fail on it (R130, R131). -/
theorem smiRead_ne_invalidAddress (h : addressLegal s.cfg dev = true) (reg : RegNum) :
    (smiRead dev reg s).1 ≠ .error .invalidAddress := by
  intro hfail
  rcases smiRead_error (Prod.ext hfail rfl) with ⟨-, -, hlegal⟩ | hst
  · simp [h] at hlegal
  · cases hst

theorem smiWrite_ne_invalidAddress (h : addressLegal s.cfg dev = true) (reg : RegNum) (v : Half) :
    (smiWrite dev reg v s).1 ≠ .error .invalidAddress := by
  intro hfail
  rcases smiWrite_error (Prod.ext hfail rfl) with ⟨-, -, hlegal⟩ | hst
  · simp [h] at hlegal
  · cases hst

end

/-- Settles O15: under R7's constraints the check is `dev < 32`, and it is the only way to that failure. -/
theorem addressCheckTouchesNothing : Obligations.AddressCheckTouchesNothing := by
  intro s dev reg v hwf
  refine ⟨fun hdev => ?_, fun hdev => ?_⟩
  · have hillegal := addressLegal_of_ge hwf hdev
    exact ⟨smiRead_of_illegal hillegal reg, smiWrite_of_illegal hillegal reg v⟩
  · have hlegal := addressLegal_of_lt hwf hdev
    exact ⟨smiRead_ne_invalidAddress hlegal reg, smiWrite_ne_invalidAddress hlegal reg v⟩

/-! ## The control word -/

/-- Settles O16: the slices of the two words, and their status bits, which no field reaches. -/
theorem controlWordCarriesItsFields : Obligations.ControlWordCarriesItsFields := by
  refine ⟨fun cfg dev reg v hwf hdev => ?_, by decide, by decide⟩
  have hlegal := addressLegal_of_lt hwf hdev
  obtain ⟨hwdev, hwreg, hwdata⟩ := extractLsb'_cwWrite hwf hdev reg v
  obtain ⟨hrdev, hrreg, hrdata⟩ := extractLsb'_cwRead hwf hdev reg
  refine ⟨hwdata, hrdata, ?_⟩
  rintro w (rfl | rfl)
  · exact ⟨hwdev, hwreg, cleanControlWord_cwWrite hwf hlegal reg v⟩
  · exact ⟨hrdev, hrreg, cleanControlWord_cwRead hwf hlegal reg⟩

/-! ## The commands that complete -/

/-- Settles O17: one `SmiRead` on the script, and its answer. -/
theorem smiRdAnswersTheDatum : Obligations.SmiRdAnswersTheDatum := by
  intro s dev reg busy late c v d cs ds hwf hdev hbusy hbusyMax hc hlate hlateMax hv henv
  have hread := smiRead_script (reg := reg) (addressLegal_of_lt hwf hdev) hbusy hbusyMax hc hlate hlateMax hv henv
  exact congrArg Host.Outcome.next (finish_busMoved hread)

/-- Settles O18: one `SmiWrite` on the script, and the answer 0. -/
theorem smiWrIssuesTheControlWord : Obligations.SmiWrIssuesTheControlWord := by
  intro s dev reg val busy c cs ds hwf hdev hbusy hbusyMax hc henv
  have hwrite := smiWrite_script (reg := reg) (x := val) (addressLegal_of_lt hwf hdev) hbusy hbusyMax hc henv
  exact congrArg Host.Outcome.next (finish_busMoved (andThen_of_ok hwrite))

end Sys2Proof.Machine

/-! PROOFS. The commands that are one register access or one field write, when that access fails (41_bus_transport.md
R131, R132, R136; 42_field_codec.md R151; 60_exceptions.md R268, R272, R276). -/

namespace Sys2Proof.Machine

/-! ## Transport operations that time out -/

section
variable {s : State} {dev : Nat} {reg : RegNum} {ctrl data cs ds : List Word} {evs : List BusEvent}

/-- A `SmiWrite` whose busy poll is outlasted issues nothing (R134). -/
theorem smiWrite_timesOut (ha : addressLegal s.cfg dev = true) (v : Half) (h : WriteTimesOut s.cfg ctrl evs)
    (henv : s.env = .script (ctrl ++ cs) ds) :
    smiWrite dev reg v s = (.error .timeout, busMoved s cs ds evs) := by
  obtain ⟨hbusy, hlen, rfl⟩ := h
  have hpoll : pollBusy s = _ := hlen ▸ pollBusyFrom_script_timeout hbusy henv
  rw [smiWrite, andThen_of_ok (checkAddress_of_legal ha), andThen_of_error hpoll]

/-- A `SmiRead` times out in its busy poll, or in its read-valid poll with the command word issued (R133, R138). -/
theorem smiRead_timesOut (ha : addressLegal s.cfg dev = true) (h : ReadTimesOut s.cfg dev reg ctrl evs)
    (henv : s.env = .script (ctrl ++ cs) ds) :
    smiRead dev reg s = (.error .timeout, busMoved s cs ds evs) := by
  rw [smiRead, andThen_of_ok (checkAddress_of_legal ha)]
  rcases h with ⟨hbusy, hlen, rfl⟩ | ⟨busy, c, late, rfl, hbusy, hbusyMax, hc, hlate, hlen, rfl⟩
  · have hpoll : pollBusy s = _ := hlen ▸ pollBusyFrom_script_timeout hbusy henv
    rw [andThen_of_error hpoll]
  · rw [List.append_assoc, List.cons_append] at henv
    have hbusyPoll : pollBusy s = _ := pollBusyFrom_script hbusy hbusyMax hc henv
    rw [andThen_of_ok hbusyPoll, andThen_issue, memWriteCtrl_script _ (busMoved_env ..), busMoved_busMoved]
    have hpoll (evs : List BusEvent) : pollValid (busMoved s (late ++ cs) ds evs) = _ :=
      hlen ▸ pollValidFrom_script_timeout (s := busMoved s (late ++ cs) ds evs) hlate rfl
    rw [andThen_of_error (hpoll _)]
    simp

/-- A field write times out in its read half, or in its write half with the read made (42_field_codec.md R151). -/
theorem writeField_timesOut (hwf : s.cfg.bus.WF) (ha : addressLegal s.cfg dev = true) (off : BitVec 4)
    (len : BitVec 5) (val : Half) (h : FieldWriteTimesOut s.cfg dev reg ctrl data evs)
    (henv : s.env = .script (ctrl ++ cs) (data ++ ds)) :
    writeField dev reg off len val s = (.error .timeout, busMoved s cs ds evs) := by
  rcases h with ⟨rfl, hread⟩ | ⟨r, ctrl', evs', ⟨hbusy, hvalid⟩, hwrite, rfl, rfl, rfl⟩
  · exact andThen_of_error (smiRead_timesOut ha hread henv)
  · have hread := smiRead_ready (reg := reg) hwf ha hbusy hvalid henv
    have hrest := smiWrite_timesOut (s := busMoved s (ctrl' ++ cs) ds (r.trace s.cfg dev reg)) (reg := reg) ha
      (mergeField (datum r.data) off len val) hwrite rfl
    rw [writeField, andThen_of_ok hread]
    exact hrest.trans (by rw [busMoved_busMoved])

end

/-! ## The piece such a command is -/

/-- The piece of a command that makes a register access, with the answer it gives. -/
def RegisterUse.Makes (m : Bus Half) : RegisterUse → Prop
  | .read dev reg => m = smiRead dev reg
  | .write dev reg => ∃ v answer, m = andThen (smiWrite dev reg v) fun _ => give answer
  | .field dev reg => ∃ off len v answer, m = andThen (writeField dev reg off len v) fun _ => give answer

section
variable {s : State} {i : Instr} {u : RegisterUse} {m : Bus Half}

/-- A port-configuration command whose checks pass makes its descriptor's field write (46_port_config.md R235). -/
theorem exists_makes_of_describedUse {op : PortOp} {legal : Bool} {d : FieldDesc} {port : BitVec 8}
    (h : describedUse op legal d port s = some u) (v answer : Half) :
    ∃ m, u.Makes m ∧ portChecks op legal (writeDescribed d port v answer) s = finish m s := by
  unfold describedUse at h
  split at h
  · next hok =>
    cases h
    refine ⟨_, ⟨d.off, d.len, v, answer, rfl⟩, ?_⟩
    simp only [portChecks, hok]
    rfl
  · cases h

/-- The commands that are one register access are its piece and the answer. -/
theorem exists_makes_of_registerUse (h : registerUse s i = some u) :
    ∃ m, u.Makes m ∧ exec i s = .next (finish m s) := by
  have hport {op : PortOp} {legal : Bool} {d : FieldDesc} {port : BitVec 8} {v answer : Half}
      (hu : describedUse op legal d port s = some u)
      (hexec : exec i s = .next (portChecks op legal (writeDescribed d port v answer) s)) :
      ∃ m, u.Makes m ∧ exec i s = .next (finish m s) := by
    obtain ⟨m, hm, hrun⟩ := exists_makes_of_describedUse hu v answer
    exact ⟨m, hm, hexec.trans (congrArg _ hrun)⟩
  cases i with
  | smiRd | regRd => cases h; exact ⟨_, rfl, rfl⟩
  | smiWr | regWr => cases h; exact ⟨_, ⟨_, 0, rfl⟩, rfl⟩
  | smiFldWr | regFldWr => cases h; exact ⟨_, ⟨_, _, _, 0, rfl⟩, rfl⟩
  | portState | portFrameMode | portVlanMembers | portHeaderMode | pcsForceSpeed | pcsForceDuplex | pcsForceFc
  | pcsForceLink | portJumbo => exact hport h rfl
  | _ => cases h

/-- Such a piece times out when its access does. -/
theorem RegisterUse.Makes.timesOut (hm : u.Makes m) (hwf : s.cfg.bus.WF) (ha : addressLegal s.cfg u.dev = true)
    {ctrl data cs ds : List Word} {evs : List BusEvent} (h : u.TimesOut s.cfg ctrl data evs)
    (henv : s.env = .script (ctrl ++ cs) (data ++ ds)) : m s = (.error .timeout, busMoved s cs ds evs) := by
  cases u with
  | read dev reg =>
    obtain ⟨rfl, hread⟩ := h
    exact hm ▸ smiRead_timesOut ha hread henv
  | write dev reg =>
    obtain ⟨rfl, hwrite⟩ := h
    obtain ⟨v, answer, rfl⟩ := hm
    exact andThen_of_error (smiWrite_timesOut ha v hwrite henv)
  | field dev reg =>
    obtain ⟨off, len, v, answer, rfl⟩ := hm
    exact andThen_of_error (writeField_timesOut hwf ha off len v h henv)

/-- Such a piece does nothing when its address fails the check (R131). -/
theorem RegisterUse.Makes.illegal (hm : u.Makes m) (ha : addressLegal s.cfg u.dev = false) :
    m s = (.error .invalidAddress, s) := by
  cases u with
  | read dev reg => exact hm ▸ smiRead_of_illegal ha reg
  | write dev reg =>
    obtain ⟨v, answer, rfl⟩ := hm
    exact andThen_of_error (smiWrite_of_illegal ha reg v)
  | field dev reg =>
    obtain ⟨off, len, v, answer, rfl⟩ := hm
    exact andThen_of_error (writeField_of_illegal ha reg off len v)

/-- The six commands with a device address are register accesses at it. -/
theorem exists_registerUse_of_directDevice {dev : Nat} (h : directDevice s.cfg i = some dev) :
    ∃ u, registerUse s i = some u ∧ u.dev = dev := by
  cases i with
  | smiRd | smiWr | smiFldWr | regRd | regWr | regFldWr => cases h; exact ⟨_, rfl, rfl⟩
  | _ => cases h

end

/-- Settles O19: the command is one piece, and its operation times out. -/
theorem registerCommandsTimeOut : Obligations.RegisterCommandsTimeOut := by
  intro s i u ctrl data evs cs ds hwf hu hdev htimeout henv
  obtain ⟨m, hm, hexec⟩ := exists_makes_of_registerUse hu
  rw [hexec, finish_busMoved_error (hm.timesOut hwf (addressLegal_of_lt hwf hdev) htimeout henv)]

/-- Settles O20: the command is one piece, whose first operation fails its address check. -/
theorem registerCommandsRefuseWideAddress : Obligations.RegisterCommandsRefuseWideAddress := by
  intro s i dev hwf hdirect hdev
  obtain ⟨u, hu, rfl⟩ := exists_registerUse_of_directDevice hdirect
  obtain ⟨m, hm, hexec⟩ := exists_makes_of_registerUse hu
  rw [hexec, finish, hm.illegal (addressLegal_of_ge hwf hdev)]
  rfl

end Sys2Proof.Machine

/-! PROOFS. The register field codec: the bits of the mask and of the merged value, and the field write that completes
(42_field_codec.md R150 to R152, R154). -/

namespace Sys2Proof.Machine

/-! ## The mask -/

/-- `(1 << n) - 1` has the bits below `n`. -/
theorem getLsbD_onesBelow {n i : Nat} (hn : n < 16) : ((1#16 <<< n) - 1).getLsbD i = decide (i < n) := by
  have hlow : 1 ≤ 2 ^ n := Nat.one_le_two_pow
  have hhigh : 2 ^ n < 65536 := Nat.pow_lt_pow_right (n := 16) (by decide) hn
  have hpow : (1#16 <<< n).toNat = 2 ^ n := by simpa [Nat.shiftLeft_eq] using hhigh
  have hones : ((1#16 <<< n) - 1).toNat = 2 ^ n - 1 := by bv_omega
  rw [BitVec.getLsbD, hones, Nat.testBit_two_pow_sub_one]

section
variable {off : BitVec 4} {len : BitVec 5} {i : Nat}

/-- A field that reaches the top: every bit from the offset (R150). -/
theorem getLsbD_fieldMask_of_reaches (h : 16 ≤ off.toNat + len.toNat) (hi : i < 16) :
    (fieldMask off len).getLsbD i = true ↔ off.toNat ≤ i := by
  rw [fieldMask, if_pos h, BitVec.getLsbD_not, getLsbD_onesBelow off.isLt]
  simp [hi]

/-- A field that ends below the top: `len` bits from the offset (R150). -/
theorem getLsbD_fieldMask_of_fits (h : off.toNat + len.toNat < 16) (hi : i < 16) :
    (fieldMask off len).getLsbD i = true ↔ off.toNat ≤ i ∧ i < off.toNat + len.toNat := by
  rw [fieldMask, if_neg (Nat.not_le.mpr h), BitVec.getLsbD_shiftLeft, getLsbD_onesBelow (by omega)]
  simp [hi]
  omega

/-- No bit of the mask lies below the offset. -/
theorem offset_le_of_getLsbD_fieldMask (hi : i < 16) (h : (fieldMask off len).getLsbD i = true) :
    off.toNat ≤ i := by
  by_cases hreach : 16 ≤ off.toNat + len.toNat
  · exact (getLsbD_fieldMask_of_reaches hreach hi).mp h
  · exact ((getLsbD_fieldMask_of_fits (Nat.not_le.mp hreach) hi).mp h).1

end

/-- Settles O22: the two branches of the mask. -/
theorem fieldMaskBits : Obligations.FieldMaskBits := by
  intro off len i hi
  split
  · next h => exact getLsbD_fieldMask_of_reaches h hi
  · next h => exact getLsbD_fieldMask_of_fits (Nat.not_le.mp h) hi

/-! ## The merged value -/

/-- Settles O23: a bit the mask has is one of the shifted value, at or above the offset; any other is the register's. -/
theorem fieldMergeKeepsBitsOutside : Obligations.FieldMergeKeepsBitsOutside := by
  intro r off len val i hi
  rw [mergeField, BitVec.getLsbD_or, BitVec.getLsbD_and, BitVec.getLsbD_and, BitVec.getLsbD_not,
    BitVec.getLsbD_shiftLeft]
  cases hmask : (fieldMask off len).getLsbD i with
  | true =>
    have hoff := offset_le_of_getLsbD_fieldMask hi hmask
    simp [hi, Nat.not_lt.mpr hoff]
  | false => simp [hi]

/-! ## The command -/

/-- Settles O24: one field write on the script, and the answer 0. -/
theorem smiFldWrWritesTheMergedField : Obligations.SmiFldWrWritesTheMergedField := by
  intro s dev reg off len val r c cs ds hwf hdev hprompt hc henv
  obtain ⟨hbusy, hvalid⟩ := hprompt
  have hwrite := writeField_ready (reg := reg) (off := off) (len := len) (val := val) hwf
    (addressLegal_of_lt hwf hdev) hbusy hvalid hc henv
  exact congrArg Host.Outcome.next (finish_busMoved (andThen_of_ok hwrite))

end Sys2Proof.Machine

/-! PROOFS. The address mapper's table, and the mapped register commands that complete (43_address_mapper.md R165, R167,
R170 to R172). -/

namespace Sys2Proof.Machine

/-- Settles O25: each row of R165 is a case of `mapAddress`. -/
theorem addressMapperTable : Obligations.AddressMapperTable := fun _ _ =>
  ⟨rfl, rfl, rfl, rfl, rfl, rfl, rfl⟩

/-- Settles O27: each command is one transport or codec operation at the mapped device, whose address check passes
whatever kind the code stands for. -/
theorem mappedAccessCompletes : Obligations.MappedAccessCompletes := by
  intro s port reg kind off len val r c cs ds hwf hdev hprompt hc
  obtain ⟨hbusy, hvalid⟩ := hprompt
  have hlegal : addressLegal s.cfg (mappedDevice s.cfg port kind) = true := addressLegal_of_lt hwf hdev
  refine ⟨fun henv => ?_, fun henv => ?_, fun henv => ?_⟩
  · have hread := smiRead_ready (reg := reg) hwf hlegal hbusy hvalid henv
    exact congrArg Host.Outcome.next (finish_busMoved hread)
  · have hwrite := smiWrite_ready (reg := reg) (x := val) hwf hlegal hc henv
    exact congrArg Host.Outcome.next (finish_busMoved (andThen_of_ok hwrite))
  · have hfield := writeField_ready (reg := reg) (off := off) (len := len) (val := val) hwf hlegal hbusy hvalid hc henv
    exact congrArg Host.Outcome.next (finish_busMoved (andThen_of_ok hfield))

end Sys2Proof.Machine

/-! PROOFS. The words of a table operation, and the ATU's data word packed and unpacked (44_atu_engine.md R188 to R192,
R200, R201; 93_implementation_defined.md U11). -/

namespace Sys2Proof.Machine

/-! ## Fields of a half word -/

/-- A mask with the bits below `n` set, and no other. -/
def CoversBelow (m : Half) (n : Nat) : Prop := ∀ i < 16, m.getLsbD i = decide (i < n)

theorem coversBelow_0x1 : CoversBelow 0x1 1 := by unfold CoversBelow; decide
theorem coversBelow_0x3 : CoversBelow 0x3 2 := by unfold CoversBelow; decide
theorem coversBelow_0xF : CoversBelow 0xF 4 := by unfold CoversBelow; decide
theorem coversBelow_0x0FFF : CoversBelow 0x0FFF 12 := by unfold CoversBelow; decide

/-- The port vector's mask covers as many bits as there are ports, all of them from sixteen ports on (R189). -/
theorem coversBelow_pvMask (ctx : Context) : CoversBelow (pvMask ctx) ctx.portCount.toNat := by
  intro i hi
  unfold pvMask
  by_cases hports : ctx.portCount.toNat < 16
  · exact getLsbD_onesBelow hports
  · have hshift : (1#16 <<< ctx.portCount.toNat) = 0#16 := BitVec.shiftLeft_eq_zero (by omega)
    have hall : i < ctx.portCount.toNat := by omega
    rw [hshift, show (0#16 - 1 : Half) = BitVec.allOnes 16 by decide, BitVec.getLsbD_allOnes]
    simp [hi, hall]

section
variable {m : Half} {n : Nat}

/-- A field shifted down and cut to its width. -/
theorem CoversBelow.getLsbD_extracted (h : CoversBelow m n) (d : Half) (lsb i : Nat) :
    ((d >>> lsb) &&& m).getLsbD i = (decide (i < n) && d.getLsbD (lsb + i)) := by
  rw [BitVec.getLsbD_and, BitVec.getLsbD_ushiftRight, Bool.and_comm]
  by_cases hi : i < 16
  · rw [h i hi]
  · simp [BitVec.getLsbD_of_ge d (lsb + i) (by omega)]

/-- A field cut to its width and shifted up. -/
theorem CoversBelow.getLsbD_placed (h : CoversBelow m n) (v : Half) (lsb : Nat) {i : Nat} (hi : i < 16) :
    ((v &&& m) <<< lsb).getLsbD i = (decide (lsb ≤ i ∧ i < lsb + n) && v.getLsbD (i - lsb)) := by
  rw [BitVec.getLsbD_shiftLeft, BitVec.getLsbD_and, h (i - lsb) (by omega)]
  by_cases hlow : lsb ≤ i
  · have hwidth : i - lsb < n ↔ i < lsb + n := by omega
    simp [hi, hlow, Nat.not_lt.mpr hlow, hwidth, Bool.and_comm]
  · simp [hlow, Nat.not_le.mp hlow]

/-- A field that holds a value's low bits is the value cut to the field's width. -/
theorem CoversBelow.extracted_eq (h : CoversBelow m n) {d v : Half} {lsb : Nat}
    (hfield : ∀ i < n, i < 16 → d.getLsbD (lsb + i) = v.getLsbD i) : (d >>> lsb) &&& m = v &&& m := by
  refine BitVec.eq_of_getLsbD_eq fun i hi => ?_
  rw [h.getLsbD_extracted, BitVec.getLsbD_and, h i hi, Bool.and_comm]
  by_cases hn : i < n
  · rw [hfield i hn hi]
  · simp [hn]

end

/-! ## The operation word and the flush word -/

/-- The bits of an operation word (R188). -/
theorem getLsbD_opWord (op : BitVec 3) (extra : Half) {i : Nat} (hi : i < 16) :
    (opWord op extra).getLsbD i =
      (decide (i = 15) || (decide (12 ≤ i) && op.getLsbD (i - 12)) || (decide (i < 12) && extra.getLsbD i)) := by
  have htop : ∀ j < 16, (0x8000#16).getLsbD j = decide (j = 15) := by decide
  have hextra : (extra &&& 0x0FFF).getLsbD i = (decide (i < 12) && extra.getLsbD i) := by
    rw [BitVec.getLsbD_and, coversBelow_0x0FFF i hi, Bool.and_comm]
  have hop : (op.setWidth 16 <<< 12).getLsbD i = (decide (12 ≤ i) && op.getLsbD (i - 12)) := by
    rw [BitVec.getLsbD_shiftLeft, BitVec.getLsbD_setWidth]
    by_cases h : 12 ≤ i
    · simp [h, hi, Nat.not_lt.mpr h, show i - 12 < 16 by omega]
    · simp [h, Nat.not_le.mp h]
  rw [opWord, BitVec.getLsbD_or, BitVec.getLsbD_or, hop, hextra]
  exact congrArg (fun b => (b || _) || _) (htop i hi)

/-- The operation word is busy, opcode, extra address bits, from the top (R188). -/
theorem opWord_fields (op : BitVec 3) (extra : Half) :
    (opWord op extra).getLsbD 15 = true ∧ (opWord op extra).extractLsb' 12 3 = op ∧
    (opWord op extra).extractLsb' 0 12 = extra.extractLsb' 0 12 := by
  refine ⟨?_, BitVec.eq_of_getLsbD_eq fun i hi => ?_, BitVec.eq_of_getLsbD_eq fun i hi => ?_⟩
  · rw [getLsbD_opWord op extra (by decide)]
    rfl
  · rw [BitVec.getLsbD_extractLsb', getLsbD_opWord op extra (by omega)]
    simp [hi, show 12 + i ≠ 15 by omega]
  · rw [BitVec.getLsbD_extractLsb', BitVec.getLsbD_extractLsb', getLsbD_opWord op extra (by omega)]
    simp [hi, show i ≠ 15 by omega, show ¬ 12 ≤ i by omega]

theorem getLsbD_nibbleOfOnes {i : Nat} (hi : i < 4) : (0xF#4).getLsbD i = true :=
  (by decide : ∀ j < 4, (0xF#4).getLsbD j = true) i hi

/-- The test of R192 looks at the low nibble. -/
theorem and_0xF_eq_iff (v : Half) : v &&& 0xF = 0xF ↔ v.extractLsb' 0 4 = 0xF#4 := by
  refine ⟨fun h => BitVec.eq_of_getLsbD_eq fun i hi => ?_, fun h => BitVec.eq_of_getLsbD_eq fun i hi => ?_⟩
  · have hbit := congrArg (fun x : Half => x.getLsbD i) h
    rw [BitVec.getLsbD_and, coversBelow_0xF i (by omega)] at hbit
    rw [BitVec.getLsbD_extractLsb', getLsbD_nibbleOfOnes hi]
    simpa [hi] using hbit
  · rw [BitVec.getLsbD_and, coversBelow_0xF i hi]
    by_cases hlow : i < 4
    · have hbit := congrArg (fun x : BitVec 4 => x.getLsbD i) h
      rw [BitVec.getLsbD_extractLsb', getLsbD_nibbleOfOnes hlow] at hbit
      simpa [hlow] using hbit
    · simp [hlow]

/-- The bits of a move directive (R192). -/
theorem getLsbD_flushData_of_move {s : State} (h : readE 5 s &&& 0xF = 0xF) {i : Nat} (hi : i < 16) :
    (flushData s).getLsbD i =
      (decide (i < 4) || (decide (4 ≤ i ∧ i < 8) && (readE 9 s).getLsbD (i - 4)) ||
        (decide (8 ≤ i ∧ i < 12) && (readE 10 s).getLsbD (i - 8))) := by
  rw [flushData, if_pos h, BitVec.getLsbD_or, BitVec.getLsbD_or, coversBelow_0xF.getLsbD_placed _ 4 hi,
    coversBelow_0xF.getLsbD_placed _ 8 hi]
  exact congrArg (fun b => (b || _) || _) (coversBelow_0xF i hi)

/-- The nibbles of a move directive: the state, moveFrom, moveTo and 0 (R192). -/
theorem flushData_fields_of_move {s : State} (h : readE 5 s &&& 0xF = 0xF) :
    (flushData s).extractLsb' 0 4 = 0xF#4 ∧ (flushData s).extractLsb' 4 4 = (readE 9 s).extractLsb' 0 4 ∧
    (flushData s).extractLsb' 8 4 = (readE 10 s).extractLsb' 0 4 ∧ (flushData s).extractLsb' 12 4 = 0#4 := by
  refine ⟨?_, ?_, ?_, ?_⟩ <;> refine BitVec.eq_of_getLsbD_eq fun i hi => ?_ <;>
    rw [BitVec.getLsbD_extractLsb', getLsbD_flushData_of_move h (by omega)]
  · rw [getLsbD_nibbleOfOnes hi]
    simp [hi]
  · rw [BitVec.getLsbD_extractLsb']
    simp [hi, show 4 + i < 8 by omega, show ¬ 8 ≤ 4 + i by omega]
  · rw [BitVec.getLsbD_extractLsb']
    simp [hi, show 8 + i < 12 by omega, show ¬ 8 + i < 8 by omega, show ¬ 8 + i < 4 by omega]
  · simp [show ¬ 12 + i < 4 by omega, show ¬ 12 + i < 8 by omega, show ¬ 12 + i < 12 by omega]

/-- Settles O33: the bits of the two words, the sixteen nibbles, and the two extracted fields. -/
theorem tableWordLayouts : Obligations.TableWordLayouts := by
  refine ⟨opWord_fields, fun s => ⟨fun h => ?_, fun h => ?_⟩, by decide, fun cfg o d i => ⟨?_, ?_⟩⟩
  · exact flushData_fields_of_move ((and_0xF_eq_iff _).mpr h)
  · rw [flushData, if_neg (mt (and_0xF_eq_iff _).mp h)]
  · rw [violNibble, BitVec.getLsbD_extractLsb']
  · exact coversBelow_0xF.getLsbD_extracted d _ i

/-! ## The ATU's data word -/

/-- The layout of a packed data word (R189). -/
theorem getLsbD_packAtuData (s : State) {i : Nat} (hi : i < 16) :
    (packAtuData s).getLsbD i =
      ((decide (s.cfg.atu.stateLsb ≤ i ∧ i < s.cfg.atu.stateLsb + 4) && (readE 5 s).getLsbD (i - s.cfg.atu.stateLsb)) ||
       (decide (s.cfg.atu.pvLsb ≤ i ∧ i < s.cfg.atu.pvLsb + s.ctx.portCount.toNat) &&
          (readE 4 s).getLsbD (i - s.cfg.atu.pvLsb)) ||
       (decide (s.cfg.atu.prioLsb ≤ i ∧ i < s.cfg.atu.prioLsb + 2) && (readE 6 s).getLsbD (i - s.cfg.atu.prioLsb)) ||
       (decide (s.cfg.atu.trunkBit = some i) && (readE 7 s).getLsbD 0)) := by
  rw [packAtuData, BitVec.getLsbD_or, BitVec.getLsbD_or, BitVec.getLsbD_or, coversBelow_0xF.getLsbD_placed _ _ hi,
    (coversBelow_pvMask s.ctx).getLsbD_placed _ _ hi, coversBelow_0x3.getLsbD_placed _ _ hi]
  congr 1
  cases s.cfg.atu.trunkBit with
  | none => simp
  | some t =>
    show ((readE 7 s &&& 1) <<< t).getLsbD i = _
    rw [coversBelow_0x1.getLsbD_placed _ t hi]
    by_cases ht : t = i
    · simp [ht]
    · have hoff : ¬ (t ≤ i ∧ i < t + 1) := by omega
      rw [decide_eq_false hoff]
      simp [ht]

/-- What unpacking leaves in each register it writes (R190). -/
theorem readE_unpackAtuData_state (d : Half) (s : State) :
    readE 5 (unpackAtuData d s) = (d >>> s.cfg.atu.stateLsb) &&& 0xF := by
  unfold unpackAtuData
  split <;> simp [readE_writeE_of_ne]

theorem readE_unpackAtuData_vector (d : Half) (s : State) :
    readE 4 (unpackAtuData d s) = (d >>> s.cfg.atu.pvLsb) &&& pvMask s.ctx := by
  unfold unpackAtuData
  split <;> simp [readE_writeE_of_ne]

theorem readE_unpackAtuData_priority (d : Half) (s : State) :
    readE 6 (unpackAtuData d s) = (d >>> s.cfg.atu.prioLsb) &&& 0x3 := by
  unfold unpackAtuData
  split <;> simp [readE_writeE_of_ne]

theorem readE_unpackAtuData_trunk {s : State} {t : Nat} (ht : s.cfg.atu.trunkBit = some t) (d : Half) :
    readE 7 (unpackAtuData d s) = (d >>> t) &&& 1 := by
  simp [unpackAtuData, ht]

/-- Unpacking leaves every other register alone, E[7] among them without a trunk bit (R190). -/
theorem readE_unpackAtuData_of_ne (d : Half) (s : State) {j : BitVec 4} (h4 : j ≠ 4) (h5 : j ≠ 5) (h6 : j ≠ 6)
    (h7 : j = 7 → s.cfg.atu.trunkBit = none) : readE j (unpackAtuData d s) = readE j s := by
  refine (stores_unpackAtuData d s).e j ?_
  cases ht : s.cfg.atu.trunkBit with
  | none => simpa [unpackedRegs, ht] using ⟨h5, h4, h6⟩
  | some t =>
    have h7' : j ≠ 7 := fun h => by simp [h7 h] at ht
    simpa [unpackedRegs, ht] using ⟨h5, h4, h6, h7'⟩

/-- The fields of the data word are clear of each other (93_implementation_defined.md U11). -/
structure EntryFieldsClear (s : State) : Prop where
  atu : s.cfg.atu.WF
  vector_fits : s.cfg.atu.pvLsb + s.ctx.portCount.toNat ≤ 16
  vector_state :
    s.cfg.atu.pvLsb + s.ctx.portCount.toNat ≤ s.cfg.atu.stateLsb ∨ s.cfg.atu.stateLsb + 4 ≤ s.cfg.atu.pvLsb
  vector_priority :
    s.cfg.atu.pvLsb + s.ctx.portCount.toNat ≤ s.cfg.atu.prioLsb ∨ s.cfg.atu.prioLsb + 2 ≤ s.cfg.atu.pvLsb
  vector_trunk : ∀ t, s.cfg.atu.trunkBit = some t →
    s.cfg.atu.pvLsb + s.ctx.portCount.toNat ≤ t ∨ t < s.cfg.atu.pvLsb

section
variable {s : State}

/-- With the fields clear of each other, the trunk bit lies outside the other three. -/
theorem EntryFieldsClear.trunk_apart (h : EntryFieldsClear s) {t : Nat} (ht : s.cfg.atu.trunkBit = some t) :
    t < 16 ∧ ¬ (s.cfg.atu.stateLsb ≤ t ∧ t < s.cfg.atu.stateLsb + 4) ∧
    ¬ (s.cfg.atu.pvLsb ≤ t ∧ t < s.cfg.atu.pvLsb + s.ctx.portCount.toNat) ∧
    ¬ (s.cfg.atu.prioLsb ≤ t ∧ t < s.cfg.atu.prioLsb + 2) := by
  obtain ⟨hfits, hstate, hprio⟩ := h.atu.trunk_fits t ht
  have hvector := h.vector_trunk t ht
  omega

/-- Each field of a packed word then holds its register's low bits. -/
theorem EntryFieldsClear.packed_state (h : EntryFieldsClear s) {i : Nat} (hi : i < 4) :
    (packAtuData s).getLsbD (s.cfg.atu.stateLsb + i) = (readE 5 s).getLsbD i := by
  have hfits := h.atu.state_fits
  have hvector := h.vector_state
  have hprio := h.atu.state_prio
  have htrunk : s.cfg.atu.trunkBit ≠ some (s.cfg.atu.stateLsb + i) := fun ht => by
    have := h.trunk_apart ht
    omega
  rw [getLsbD_packAtuData s (by omega), decide_eq_false (p := s.cfg.atu.pvLsb ≤ _ ∧ _) (by omega),
    decide_eq_false (p := s.cfg.atu.prioLsb ≤ _ ∧ _) (by omega)]
  simp [hi, htrunk]

theorem EntryFieldsClear.packed_vector (h : EntryFieldsClear s) {i : Nat} (hi : i < s.ctx.portCount.toNat) :
    (packAtuData s).getLsbD (s.cfg.atu.pvLsb + i) = (readE 4 s).getLsbD i := by
  have hfits := h.vector_fits
  have hstate := h.vector_state
  have hprio := h.vector_priority
  have htrunk : s.cfg.atu.trunkBit ≠ some (s.cfg.atu.pvLsb + i) := fun ht => by
    have := h.trunk_apart ht
    omega
  rw [getLsbD_packAtuData s (by omega), decide_eq_false (p := s.cfg.atu.stateLsb ≤ _ ∧ _) (by omega),
    decide_eq_false (p := s.cfg.atu.prioLsb ≤ _ ∧ _) (by omega)]
  simp [hi, htrunk]

theorem EntryFieldsClear.packed_priority (h : EntryFieldsClear s) {i : Nat} (hi : i < 2) :
    (packAtuData s).getLsbD (s.cfg.atu.prioLsb + i) = (readE 6 s).getLsbD i := by
  have hfits := h.atu.prio_fits
  have hstate := h.atu.state_prio
  have hvector := h.vector_priority
  have htrunk : s.cfg.atu.trunkBit ≠ some (s.cfg.atu.prioLsb + i) := fun ht => by
    have := h.trunk_apart ht
    omega
  rw [getLsbD_packAtuData s (by omega), decide_eq_false (p := s.cfg.atu.stateLsb ≤ _ ∧ _) (by omega),
    decide_eq_false (p := s.cfg.atu.pvLsb ≤ _ ∧ _) (by omega)]
  simp [hi, htrunk]

theorem EntryFieldsClear.packed_trunk (h : EntryFieldsClear s) {t : Nat} (ht : s.cfg.atu.trunkBit = some t) :
    (packAtuData s).getLsbD t = (readE 7 s).getLsbD 0 := by
  obtain ⟨hfits, hstate, hvector, hprio⟩ := h.trunk_apart ht
  rw [getLsbD_packAtuData s hfits, decide_eq_false hstate, decide_eq_false hvector, decide_eq_false hprio]
  simp [ht]

/-- Unpacking a packed entry gives the trunk flag back if a bit is placed for it, and leaves E[7] alone if not. -/
theorem EntryFieldsClear.unpacked_trunk (h : EntryFieldsClear s) :
    readE 7 (unpackAtuData (packAtuData s) s) =
      if s.cfg.atu.trunkBit.isSome then readE 7 s &&& 1 else readE 7 s := by
  cases ht : s.cfg.atu.trunkBit with
  | none => exact readE_unpackAtuData_of_ne _ s (by decide) (by decide) (by decide) fun _ => ht
  | some t =>
    rw [readE_unpackAtuData_trunk ht]
    refine coversBelow_0x1.extracted_eq fun i hi _ => ?_
    obtain rfl : i = 0 := by omega
    exact h.packed_trunk ht

end

/-- Settles O34: the layout, what unpacking writes and leaves, and the round trip field by field. -/
theorem packedEntryUnpacks : Obligations.PackedEntryUnpacks := by
  refine ⟨fun s i hi => getLsbD_packAtuData s hi, fun d s i => ⟨?_, ?_, ?_, fun t ht => ?_, ?_⟩, ?_⟩
  · rw [readE_unpackAtuData_state, coversBelow_0xF.getLsbD_extracted]
  · rw [readE_unpackAtuData_vector, (coversBelow_pvMask s.ctx).getLsbD_extracted]
  · rw [readE_unpackAtuData_priority, coversBelow_0x3.getLsbD_extracted]
  · rw [readE_unpackAtuData_trunk ht, coversBelow_0x1.getLsbD_extracted]
    by_cases hi : i = 0 <;> simp [hi]
  · exact fun j h4 h5 h6 h7 => readE_unpackAtuData_of_ne d s h4 h5 h6 h7
  · intro s hatu hfits hstate hprio htrunk
    have hclear : EntryFieldsClear s := ⟨hatu, hfits, hstate, hprio, htrunk⟩
    refine ⟨?_, ?_, ?_, hclear.unpacked_trunk⟩
    · rw [readE_unpackAtuData_state]
      exact coversBelow_0xF.extracted_eq fun i hi _ => hclear.packed_state hi
    · rw [readE_unpackAtuData_vector]
      exact (coversBelow_pvMask s.ctx).extracted_eq fun i hi _ => hclear.packed_vector hi
    · rw [readE_unpackAtuData_priority]
      exact coversBelow_0x3.extracted_eq fun i hi _ => hclear.packed_priority hi

end Sys2Proof.Machine

/-! PROOFS. The pieces of a table command on a scripted environment: its polls, its commit and its result reads
(44_atu_engine.md R185 to R187, R197, R200, R202). -/

namespace Sys2Proof.Machine

section
variable {s : State} {dev : Nat} {reg : RegNum} {r : ReadAnswer} {cs ds : List Word}

/-! ## One register read -/

/-- A `SmiRead` whose polls end at once takes one answer (41_bus_transport.md R133). -/
theorem smiRead_prompt (hwf : s.cfg.bus.WF) (ha : addressLegal s.cfg dev = true) (hr : r.Prompt s.cfg)
    (henv : s.env = .script (r.ctrl ++ cs) (r.data :: ds)) :
    smiRead dev reg s = (.ok r.value, busMoved s cs ds (r.trace s.cfg dev reg)) :=
  smiRead_ready hwf ha hr.1 hr.2 henv

/-! ## The commit -/

/-- No access moves nothing. -/
theorem busMoved_nil (henv : s.env = .script cs ds) : busMoved s cs ds [] = s := by
  cases s
  simp_all [busMoved]

/-- A commit's writes made one after the other (R187). -/
theorem writeAll_ready {rows : List ((RegNum × Half) × Word)} (hwf : s.cfg.bus.WF)
    (ha : addressLegal s.cfg dev = true) (hrows : ∀ row ∈ rows, Ready s.cfg row.2)
    (henv : s.env = .script (rows.map (fun row => row.2) ++ cs) ds) (later : List (RegNum × Half)) :
    writeAll dev (rows.map (fun row => row.1) ++ later) s =
      writeAll dev later (busMoved s cs ds (commitTrace s.cfg dev rows)) := by
  induction rows generalizing s with
  | nil => exact congrArg (writeAll dev later) (busMoved_nil henv).symm
  | cons row rows ih =>
    have hfirst : smiWrite dev row.1.1 row.1.2 s = (.ok (), busMoved s (rows.map (fun row => row.2) ++ cs) ds
        (writeTrace s.cfg dev row.1.1 row.1.2 row.2)) :=
      smiWrite_ready hwf ha (hrows row List.mem_cons_self) henv
    have hrest := ih (s := busMoved s (rows.map (fun row => row.2) ++ cs) ds
      (writeTrace s.cfg dev row.1.1 row.1.2 row.2)) hwf ha (fun row hrow => hrows row (List.mem_cons_of_mem _ hrow)) rfl
    rw [List.map_cons, List.cons_append, writeAll, andThen_of_ok hfirst, hrest, busMoved_busMoved]
    rfl

/-! ## The result reads -/

/-- What becomes of a result does not depend on the bus side. -/
theorem useResult_busMoved (u : ResultUse) (v : Half) (s : State) (cs ds : List Word) (evs : List BusEvent) :
    useResult u v (busMoved s cs ds evs) = busMoved (useResult u v s) cs ds evs := by
  cases u with
  | unpackEntry =>
    simp only [useResult, unpackAtuData, busMoved_cfg]
    split <;> rfl
  | store | storeDatabase | storeState | storeKind => rfl

theorem resultsStored_busMoved (rows : List ((RegNum × ResultUse) × ReadAnswer)) (s : State) (cs ds : List Word)
    (evs : List BusEvent) : resultsStored (busMoved s cs ds evs) rows = busMoved (resultsStored s rows) cs ds evs := by
  induction rows generalizing s with
  | nil => rfl
  | cons row rows ih => exact (congrArg (resultsStored · rows) (useResult_busMoved ..)).trans (ih _)

@[simp] theorem resultsStored_cfg (rows : List ((RegNum × ResultUse) × ReadAnswer)) (s : State) :
    (resultsStored s rows).cfg = s.cfg := by
  induction rows generalizing s with
  | nil => rfl
  | cons row rows ih => exact (ih _).trans (useResult_cfg ..)

/-- Result reads that do not end the reading, made one after the other, each result stored (R202). -/
theorem readAll_prompt {rows : List ((RegNum × ResultUse) × ReadAnswer)} (hwf : s.cfg.bus.WF)
    (ha : addressLegal s.cfg dev = true)
    (hrows : ∀ row ∈ rows, row.2.Prompt s.cfg ∧ endsReadBack s.cfg row.1.2 row.2.value = false)
    (henv : s.env = .script (rows.flatMap (fun row => row.2.ctrl) ++ cs) (rows.map (fun row => row.2.data) ++ ds))
    (later : List (RegNum × ResultUse)) :
    readAll dev (rows.map (fun row => row.1) ++ later) s =
      readAll dev later (busMoved (resultsStored s rows) cs ds (resultTrace s.cfg dev rows)) := by
  induction rows generalizing s with
  | nil => exact congrArg (readAll dev later) (busMoved_nil henv).symm
  | cons row rows ih =>
    obtain ⟨hprompt, hgoes⟩ := hrows row List.mem_cons_self
    rw [List.flatMap_cons, List.append_assoc] at henv
    have hfirst := readAll_cons_of_ok (smiRead_prompt (reg := row.1.1) hwf ha hprompt henv)
      (rows.map (fun row => row.1) ++ later)
    rw [busMoved_cfg, hgoes, if_neg (by decide), useResult_busMoved] at hfirst
    have hrest := ih (s := busMoved (useResult row.1.2 row.2.value s) (rows.flatMap (fun row => row.2.ctrl) ++ cs)
      (rows.map (fun row => row.2.data) ++ ds) (row.2.trace s.cfg dev row.1.1))
    rw [busMoved_cfg, useResult_cfg] at hrest
    have hlater := hrest hwf ha (fun row hrow => hrows row (List.mem_cons_of_mem _ hrow)) (busMoved_env ..)
    rw [resultsStored_busMoved, busMoved_busMoved] at hlater
    exact hfirst.trans hlater

end

end Sys2Proof.Machine

/-! PROOFS. A table command on a scripted environment, from one of its waits to where it waits again or answers
(44_atu_engine.md R185 to R187, R202; 60_exceptions.md R272, R276). -/

namespace Sys2Proof.Machine

/-! ## What a table command is made of -/

/-- Both tables lie at device addresses that pass the address check (00_scope.md R7; 41_bus_transport.md R131). -/
theorem addressLegal_tablePlan {cfg : Config} (h : cfg.WF) (c : TableCmd) :
    addressLegal cfg (tablePlan cfg c).dev = true := by
  refine addressLegal_of_lt h.bus ?_
  rcases tablePlan_dev cfg c with ⟨hdev, -⟩ | ⟨hdev, -⟩ <;> rw [hdev]
  · exact Nat.lt_succ_of_le h.map.global_fits
  · exact Nat.lt_succ_of_le h.map.global2_fits

/-- A commit's words are made of the operand registers, which no access changes (R187). -/
theorem commit_busMoved (cfg : Config) (c : TableCmd) (s : State) (cs ds : List Word) (evs : List BusEvent) :
    (tablePlan cfg c).commit (busMoved s cs ds evs) = (tablePlan cfg c).commit s := by
  cases c <;> rfl

/-- What a table command does once a wait of it ends. -/
def afterWait (c : TableCmd) (p : TablePlan) : WaitPhase → State → State
  | .pre => runCommit c p
  | .post => finish (tableResult p)

/-- A wait goes on by one poll of the table's operation register (R186). -/
theorem resume_eq_tableWait (c : TableCmd) (ph : WaitPhase) (k : Nat) (s : State) :
    resume c ph k s = tableWait c ph k (tablePlan s.cfg c) (afterWait c (tablePlan s.cfg c) ph) s := by
  cases ph <;> rfl

/-- A table command whose context check passes is the first poll of its first wait (R185, R203). -/
theorem exec_latchedCommand_of_context {c : TableCmd} {s : State} (h : needsContext c = true → s.ctx.valid = true) :
    exec (latchedCommand c) s = .next (resume c .pre 0 s) := by
  rw [exec_latchedCommand]
  split
  · next hc => rw [requireContext_of_valid (h hc)]
  · rfl

/-- A step of a waiting block is one more poll of its wait (R186; log 1). -/
theorem step_of_waiting {s : State} {c : TableCmd} {ph : WaitPhase} {k : Nat} (hseq : s.seq = .waiting c ph k)
    (hr : s.resetIn = none) : step s = .next (resume c ph k s) := by
  rw [step, underReset_of_none hr, advance_of_waiting hseq]

/-! ## Answers after accesses -/

theorem answered_busMoved (s : State) (st : Status) (v : Half) (cs ds cs' ds' : List Word) (evs evs' : List BusEvent) :
    answered (busMoved s cs ds evs) st v cs' ds' evs' = answered s st v cs' ds' (evs ++ evs') := by
  simp [answered, busMoved, List.append_assoc]

theorem answerValue_busMoved (a : Option (BitVec 4)) (s : State) (cs ds : List Word) (evs : List BusEvent) :
    answerValue a (busMoved s cs ds evs) = answerValue a s := by
  cases a <;> rfl

section
variable {s : State} {c : TableCmd} {ph : WaitPhase} {k : Nat} {r : ReadAnswer} {cs ds : List Word}

/-! ## One poll of a wait -/

/-- A poll that ends at once shows the datum read (R186). -/
theorem smiRead_shows {busy : Bool} (hwf : s.cfg.WF) (hr : r.Shows s.cfg busy)
    (henv : s.env = .script (r.ctrl ++ cs) (r.data :: ds)) :
    smiRead (tablePlan s.cfg c).dev (tablePlan s.cfg c).opReg s = (.ok r.value,
      busMoved s cs ds (r.trace s.cfg (tablePlan s.cfg c).dev (tablePlan s.cfg c).opReg)) :=
  smiRead_prompt hwf.bus (addressLegal_tablePlan hwf c) hr.1 henv

/-- A busy table keeps the command in its wait, below the bound. -/
theorem resume_of_busy (hwf : s.cfg.WF) (hr : r.Shows s.cfg true) (hk : waitExhausted s.cfg (k + 1) = false)
    (henv : s.env = .script (r.ctrl ++ cs) (r.data :: ds)) :
    resume c ph k s =
      { busMoved s cs ds (r.trace s.cfg (tablePlan s.cfg c).dev (tablePlan s.cfg c).opReg) with
        seq := .waiting c ph (k + 1) } := by
  rw [resume_eq_tableWait]
  exact tableWait_of_busy (smiRead_shows hwf hr henv) hr.2 hk

/-- A busy table ends the command at the bound. -/
theorem resume_of_exhausted (hwf : s.cfg.WF) (hr : r.Shows s.cfg true) (hk : waitExhausted s.cfg (k + 1) = true)
    (henv : s.env = .script (r.ctrl ++ cs) (r.data :: ds)) :
    resume c ph k s = answered s .timeout 0 cs ds
      (r.trace s.cfg (tablePlan s.cfg c).dev (tablePlan s.cfg c).opReg) := by
  rw [resume_eq_tableWait]
  exact tableWait_of_exhausted (smiRead_shows hwf hr henv) hr.2 hk

/-- A poll that times out ends the command (60_exceptions.md R272). -/
theorem resume_timesOut {ctrl : List Word} {evs : List BusEvent} (hwf : s.cfg.WF)
    (h : ReadTimesOut s.cfg (tablePlan s.cfg c).dev (tablePlan s.cfg c).opReg ctrl evs)
    (henv : s.env = .script (ctrl ++ cs) ds) : resume c ph k s = answered s .timeout 0 cs ds evs := by
  rw [resume_eq_tableWait, tableWait, smiRead_timesOut (addressLegal_tablePlan hwf c) h henv]
  rfl

/-- A ready table lets the command go on. -/
theorem resume_of_ready (hwf : s.cfg.WF) (hr : r.Shows s.cfg false)
    (henv : s.env = .script (r.ctrl ++ cs) (r.data :: ds)) :
    resume c ph k s = afterWait c (tablePlan s.cfg c) ph
      (busMoved s cs ds (r.trace s.cfg (tablePlan s.cfg c).dev (tablePlan s.cfg c).opReg)) := by
  rw [resume_eq_tableWait]
  exact tableWait_of_ready (smiRead_shows hwf hr henv) hr.2

/-! ## The first wait and the commit -/

variable {writes : List ((RegNum × Half) × Word)}

/-- The first wait ended and part of the commit made: what is left of it runs from there (R185, R187). -/
theorem commit_of_ready (hwf : s.cfg.WF) (hwrites : ∀ row ∈ writes, Ready s.cfg row.2) {later : List (RegNum × Half)}
    (hcommit : (tablePlan s.cfg c).commit s = writes.map (fun row => row.1) ++ later) (evs : List BusEvent) :
    writeAll (tablePlan s.cfg c).dev
        ((tablePlan s.cfg c).commit (busMoved s (writes.map (fun row => row.2) ++ cs) ds evs))
        (busMoved s (writes.map (fun row => row.2) ++ cs) ds evs) =
      writeAll (tablePlan s.cfg c).dev later
        (busMoved s cs ds (evs ++ commitTrace s.cfg (tablePlan s.cfg c).dev writes)) := by
  have hrun := writeAll_ready (s := busMoved s (writes.map (fun row => row.2) ++ cs) ds evs) hwf.bus
    (addressLegal_tablePlan hwf c) hwrites (busMoved_env ..) later
  rwa [busMoved_busMoved, ← hcommit, ← commit_busMoved s.cfg c s] at hrun

/-- A commit made, the second wait begins where R185 has one. -/
theorem resume_pre_enters_post (hwf : s.cfg.WF) (hr : r.Shows s.cfg false)
    (hwrites : ∀ row ∈ writes, Ready s.cfg row.2)
    (hcommit : (tablePlan s.cfg c).commit s = writes.map (fun row => row.1))
    (hpost : (tablePlan s.cfg c).readStyle = true ∨ s.cfg.postWaitAll = true)
    (henv : s.env = .script (r.ctrl ++ (writes.map (fun row => row.2) ++ cs)) (r.data :: ds)) :
    resume c .pre k s = resume c .post 0 (busMoved s cs ds
      (r.trace s.cfg (tablePlan s.cfg c).dev (tablePlan s.cfg c).opReg ++
       commitTrace s.cfg (tablePlan s.cfg c).dev writes)) := by
  have hrun := commit_of_ready (cs := cs) (ds := ds) hwf hwrites (hcommit.trans (List.append_nil _).symm)
    (r.trace s.cfg (tablePlan s.cfg c).dev (tablePlan s.cfg c).opReg)
  have hsecond : ((tablePlan s.cfg c).readStyle || s.cfg.postWaitAll) = true := Bool.or_eq_true _ _ ▸ hpost
  rw [resume_of_ready hwf hr henv, afterWait, runCommit, hrun]
  exact if_pos hsecond

/-- A commit made, the command answers 0 where R185 has no second wait. -/
theorem resume_pre_answers (hwf : s.cfg.WF) (hr : r.Shows s.cfg false) (hwrites : ∀ row ∈ writes, Ready s.cfg row.2)
    (hcommit : (tablePlan s.cfg c).commit s = writes.map (fun row => row.1))
    (hstyle : (tablePlan s.cfg c).readStyle = false) (hall : s.cfg.postWaitAll = false)
    (henv : s.env = .script (r.ctrl ++ (writes.map (fun row => row.2) ++ cs)) (r.data :: ds)) :
    resume c .pre k s = answered s .ok 0 cs ds
      (r.trace s.cfg (tablePlan s.cfg c).dev (tablePlan s.cfg c).opReg ++
       commitTrace s.cfg (tablePlan s.cfg c).dev writes) := by
  have hrun := commit_of_ready (cs := cs) (ds := ds) hwf hwrites (hcommit.trans (List.append_nil _).symm)
    (r.trace s.cfg (tablePlan s.cfg c).dev (tablePlan s.cfg c).opReg)
  have hsecond : ¬ ((tablePlan s.cfg c).readStyle || s.cfg.postWaitAll) = true := by simp [hstyle, hall]
  rw [resume_of_ready hwf hr henv, afterWait, runCommit, hrun]
  exact if_neg hsecond

/-- A write of the commit that times out ends the command, the writes before it made (60_exceptions.md R272). -/
theorem resume_pre_write_timesOut {ctrl : List Word} {evs : List BusEvent} {w : RegNum × Half}
    {later : List (RegNum × Half)} (hwf : s.cfg.WF) (hr : r.Shows s.cfg false)
    (hwrites : ∀ row ∈ writes, Ready s.cfg row.2)
    (hcommit : (tablePlan s.cfg c).commit s = writes.map (fun row => row.1) ++ w :: later)
    (h : WriteTimesOut s.cfg ctrl evs)
    (henv : s.env = .script (r.ctrl ++ (writes.map (fun row => row.2) ++ (ctrl ++ cs))) (r.data :: ds)) :
    resume c .pre k s = answered s .timeout 0 cs ds
      (r.trace s.cfg (tablePlan s.cfg c).dev (tablePlan s.cfg c).opReg ++
       commitTrace s.cfg (tablePlan s.cfg c).dev writes ++ evs) := by
  have hrun := commit_of_ready (cs := ctrl ++ cs) (ds := ds) hwf hwrites hcommit
    (r.trace s.cfg (tablePlan s.cfg c).dev (tablePlan s.cfg c).opReg)
  have hwrite := smiWrite_timesOut (s := busMoved s (ctrl ++ cs) ds
    (r.trace s.cfg (tablePlan s.cfg c).dev (tablePlan s.cfg c).opReg ++
     commitTrace s.cfg (tablePlan s.cfg c).dev writes)) (reg := w.1) (addressLegal_tablePlan hwf c) w.2 h rfl
  rw [writeAll, andThen_of_error hwrite, busMoved_busMoved] at hrun
  rw [resume_of_ready hwf hr henv, afterWait, runCommit, hrun]
  rfl

/-! ## The second wait and the result reads -/

/-- Result reads that end well end the command, with its value (R187, R202). -/
theorem finish_tableResult {p : TablePlan} {t u : State} {evs : List BusEvent}
    (h : readAll p.dev p.results t = (.ok (), busMoved u cs ds evs)) :
    finish (tableResult p) t = answered u .ok (answerValue p.answer u) cs ds evs := by
  rw [finish, tableResult, andThen_of_ok h, give, answerValue_busMoved]
  rfl

/-- A result read that fails ends the command (60_exceptions.md R272). -/
theorem finish_tableResult_of_error {p : TablePlan} {t u : State} {st : Status} {evs : List BusEvent}
    (h : readAll p.dev p.results t = (.error st, busMoved u cs ds evs)) :
    finish (tableResult p) t = answered u st 0 cs ds evs := by
  rw [finish, tableResult, andThen_of_error h]
  rfl

variable {got : List ((RegNum × ResultUse) × ReadAnswer)}

/-- The second wait ended and part of the results read: the rest is read from there (R187, R202). -/
theorem results_of_ready (hwf : s.cfg.WF)
    (hgot : ∀ row ∈ got, row.2.Prompt s.cfg ∧ endsReadBack s.cfg row.1.2 row.2.value = false)
    {later : List (RegNum × ResultUse)}
    (hresults : (tablePlan s.cfg c).results = got.map (fun row => row.1) ++ later) (evs : List BusEvent) :
    readAll (tablePlan s.cfg c).dev (tablePlan s.cfg c).results
        (busMoved s (got.flatMap (fun row => row.2.ctrl) ++ cs) (got.map (fun row => row.2.data) ++ ds) evs) =
      readAll (tablePlan s.cfg c).dev later
        (busMoved (resultsStored s got) cs ds (evs ++ resultTrace s.cfg (tablePlan s.cfg c).dev got)) := by
  have hrun := readAll_prompt
    (s := busMoved s (got.flatMap (fun row => row.2.ctrl) ++ cs) (got.map (fun row => row.2.data) ++ ds) evs) hwf.bus
    (addressLegal_tablePlan hwf c) hgot (busMoved_env ..) later
  rwa [resultsStored_busMoved, busMoved_busMoved, ← hresults] at hrun

/-- A result read that times out ends the command, the results before it stored (R202; 60_exceptions.md R272). -/
theorem resume_post_result_timesOut {ctrl : List Word} {evs : List BusEvent} {u : RegNum × ResultUse}
    {later : List (RegNum × ResultUse)} (hwf : s.cfg.WF) (hr : r.Shows s.cfg false)
    (hgot : ∀ row ∈ got, row.2.Prompt s.cfg ∧ endsReadBack s.cfg row.1.2 row.2.value = false)
    (hresults : (tablePlan s.cfg c).results = got.map (fun row => row.1) ++ u :: later)
    (h : ReadTimesOut s.cfg (tablePlan s.cfg c).dev u.1 ctrl evs)
    (henv : s.env = .script (r.ctrl ++ (got.flatMap (fun row => row.2.ctrl) ++ (ctrl ++ cs)))
      (r.data :: (got.map (fun row => row.2.data) ++ ds))) :
    resume c .post k s = answered (resultsStored s got) .timeout 0 cs ds
      (r.trace s.cfg (tablePlan s.cfg c).dev (tablePlan s.cfg c).opReg ++
       resultTrace s.cfg (tablePlan s.cfg c).dev got ++ evs) := by
  rw [resume_of_ready hwf hr henv]
  refine finish_tableResult_of_error ((results_of_ready hwf hgot hresults _).trans ?_)
  have hread := smiRead_timesOut (s := busMoved (resultsStored s got) (ctrl ++ cs) ds
    (r.trace s.cfg (tablePlan s.cfg c).dev (tablePlan s.cfg c).opReg ++
     resultTrace s.cfg (tablePlan s.cfg c).dev got)) (dev := (tablePlan s.cfg c).dev) (reg := u.1)
    (by rw [busMoved_cfg, resultsStored_cfg]; exact addressLegal_tablePlan hwf c)
    (by rwa [busMoved_cfg, resultsStored_cfg]) (busMoved_env ..)
  rw [readAll, andThen_of_error hread, busMoved_busMoved]

end

end Sys2Proof.Machine

/-! PROOFS. A busy table keeps its command waiting, the bound ends the wait, and a ready table ends it
(44_atu_engine.md R185 to R187; 60_exceptions.md R278; 70_reset_and_hazards.md R309). -/

namespace Sys2Proof.Machine

section
variable {s t : State} {c : TableCmd} {ph : WaitPhase} {k : Nat} {r : ReadAnswer} {cs ds : List Word}

/-- A step of a waiting block whose table shows busy, below the bound (R186). -/
theorem step_of_busy (hwf : s.cfg.WF) (hseq : s.seq = .waiting c ph k) (hreset : s.resetIn = none)
    (hr : r.Shows s.cfg true) (hk : waitExhausted s.cfg (k + 1) = false)
    (henv : s.env = .script (r.ctrl ++ cs) (r.data :: ds)) :
    step s = .next
      { busMoved s cs ds (r.trace s.cfg (tablePlan s.cfg c).dev (tablePlan s.cfg c).opReg) with
        seq := .waiting c ph (k + 1) } := by
  rw [step_of_waiting hseq hreset, resume_of_busy hwf hr hk henv]

/-- A run of one step more begins with that step. -/
theorem run_succ_of_step (h : step s = .next t) (n : Nat) : Sys2Proof.core.run (n + 1) s = Sys2Proof.core.run n t := by
  have hstep : Sys2Proof.core.step s = .next t := h
  simp only [Host.Core.run, hstep]

end

/-- Settles O42: a poll of either wait that shows busy, and the same poll after a commit. -/
theorem busyTableKeepsTheCommandWaiting : Obligations.BusyTableKeepsTheCommandWaiting := by
  intro s c r cs ds hwf hr
  refine ⟨fun henv => ⟨fun hctx hk => ?_, fun ph k hseq hreset hk => step_of_busy hwf hseq hreset hr hk henv⟩,
    fun r0 writes hctx hpost hk hr0 hcommit hwrites henv => ?_⟩
  · rw [exec_latchedCommand_of_context hctx, resume_of_busy hwf hr hk henv]
  · simp only [List.append_assoc] at henv
    rw [exec_latchedCommand_of_context hctx, resume_pre_enters_post hwf hr0 hwrites hcommit.symm hpost henv,
      resume_of_busy (s := busMoved s (r.ctrl ++ cs) (r.data :: ds) _) hwf hr hk (busMoved_env ..),
      busMoved_busMoved]
    rfl

/-- Settles O43, by induction on `n`: one busy poll is one step, and leaves the block waiting as before. -/
theorem unboundedTableWaitNeverAnswers : Obligations.UnboundedTableWaitNeverAnswers := by
  intro n
  induction n with
  | zero =>
    intro s c ph k r cs ds _ _ hseq _ _ henv
    refine congrArg Host.Outcome.next (?_ : s = _)
    rw [List.replicate_zero, List.flatten_nil, busMoved_nil (cs := cs) (ds := ds) henv, Nat.add_zero, ← hseq]
  | succ n ih =>
    intro s c ph k r cs ds hwf hbound hseq hreset hr henv
    have hk : waitExhausted s.cfg (k + 1) = false := by simp [waitExhausted, hbound]
    rw [List.replicate_succ, List.replicate_succ, List.flatten_cons, List.append_assoc, List.cons_append] at henv
    have hstep := step_of_busy hwf hseq hreset hr hk henv
    have hrest := ih
      { busMoved s ((List.replicate n r.ctrl).flatten ++ cs) (List.replicate n r.data ++ ds)
          (r.trace s.cfg (tablePlan s.cfg c).dev (tablePlan s.cfg c).opReg) with seq := .waiting c ph (k + 1) }
      c ph (k + 1) r cs ds hwf hbound rfl hreset hr rfl
    refine (run_succ_of_step hstep n).trans (hrest.trans ?_)
    simp only [busMoved, List.replicate_succ, List.flatten_cons, List.append_assoc, Nat.add_right_comm k 1 n,
      Nat.add_assoc]

/-- Settles O44: the poll that reaches the bound, in either wait and after a commit. -/
theorem tableWaitBoundAnswersTimeout : Obligations.TableWaitBoundAnswersTimeout := by
  intro s c r cs ds k hwf hbound hr
  have hk : waitExhausted s.cfg (k + 1) = true := by simp [waitExhausted, hbound]
  refine ⟨fun henv => ⟨fun hzero hctx => ?_, fun ph hseq hreset => ?_⟩,
    fun r0 writes hzero hctx hpost hr0 hcommit hwrites henv => ?_⟩
  · subst hzero
    rw [exec_latchedCommand_of_context hctx, resume_of_exhausted hwf hr hk henv]
  · rw [step_of_waiting hseq hreset, resume_of_exhausted hwf hr hk henv]
  · subst hzero
    simp only [List.append_assoc] at henv
    rw [exec_latchedCommand_of_context hctx,
      resume_pre_enters_post hwf hr0 hwrites hcommit.symm hpost henv,
      resume_of_exhausted (s := busMoved s (r.ctrl ++ cs) (r.data :: ds) _) hwf hr hk (busMoved_env ..),
      answered_busMoved]
    rfl

/-- Settles O45: what follows a wait does not depend on how many polls it took. -/
theorem resumedWaitRunsTheCommand : Obligations.ResumedWaitRunsTheCommand := by
  intro s t c k v hreset hread hv
  have hends (ph : WaitPhase) (j : Nat) : resume c ph j s = afterWait c (tablePlan s.cfg c) ph t := by
    rw [resume_eq_tableWait]
    exact tableWait_of_ready hread hv
  refine ⟨fun hseq hctx => ?_, fun hseq => ?_⟩
  · rw [step_of_waiting hseq hreset, exec_latchedCommand_of_context hctx, hends, hends]
  · rw [step_of_waiting hseq hreset, hends]
    rfl

/-- A command that reads results has the second wait (R204). -/
theorem readStyle_of_results {cfg : Config} {c : TableCmd} (h : (tablePlan cfg c).results ≠ []) :
    (tablePlan cfg c).readStyle = true := by
  cases c with
  | atuGetNext | atuSvcViol | pvtRead => rfl
  | atuFlushAll | atuFlushUnlocked | atuLoadPurge | atuFlushAllDb | atuFlushUnlockedDb | pvtWrite => exact absurd rfl h

/-- Settles O46: each place a time-out can fall, in the order of the command. -/
theorem tableFailureKeepsWhatWasDone : Obligations.TableFailureKeepsWhatWasDone := by
  intro s c r r' writes ctrl evs cs ds hwf hr hr' hwrites
  refine ⟨fun ph k hseq hreset htimeout henv => ?_, fun hctx => ?_⟩
  · rw [step_of_waiting hseq hreset, resume_timesOut hwf htimeout henv]
  rw [exec_latchedCommand_of_context hctx]
  refine ⟨fun htimeout henv => ?_, fun w later hcommit htimeout henv => ?_, fun hpost hcommit htimeout henv => ?_,
    fun got u later hcommit hresults hgot htimeout henv => ?_⟩
  · rw [resume_timesOut hwf htimeout henv]
  · simp only [List.append_assoc] at henv
    rw [resume_pre_write_timesOut hwf hr hwrites hcommit htimeout henv]
  · simp only [List.append_assoc] at henv
    rw [resume_pre_enters_post hwf hr hwrites hcommit hpost henv,
      resume_timesOut (s := busMoved s (ctrl ++ cs) ds _) hwf htimeout (busMoved_env ..), answered_busMoved]
  · have hstyle := readStyle_of_results (cfg := s.cfg) (c := c) (by simp [hresults])
    simp only [List.append_assoc] at henv
    rw [resume_pre_enters_post hwf hr hwrites hcommit (.inl hstyle) henv,
      resume_post_result_timesOut (s := busMoved s _ _ _) hwf hr' hgot hresults htimeout (busMoved_env ..),
      resultsStored_busMoved, answered_busMoved]
    simp only [busMoved_cfg, List.append_assoc]

end Sys2Proof.Machine

/-! PROOFS. The table commands that complete, with exactly their accesses (44_atu_engine.md R185 to R187, R193 to R201;
45_pvt_engine.md R221 to R223). -/

namespace Sys2Proof.Machine

/-! ## Accesses one after the other -/

@[simp] theorem commitTrace_nil (cfg : Config) (dev : Nat) : commitTrace cfg dev [] = [] := rfl

@[simp] theorem commitTrace_cons (cfg : Config) (dev : Nat) (reg : RegNum) (v : Half) (c : Word)
    (rows : List ((RegNum × Half) × Word)) :
    commitTrace cfg dev (((reg, v), c) :: rows) = writeTrace cfg dev reg v c ++ commitTrace cfg dev rows := rfl

@[simp] theorem resultTrace_nil (cfg : Config) (dev : Nat) : resultTrace cfg dev [] = [] := rfl

@[simp] theorem resultTrace_cons (cfg : Config) (dev : Nat) (reg : RegNum) (u : ResultUse) (a : ReadAnswer)
    (rows : List ((RegNum × ResultUse) × ReadAnswer)) :
    resultTrace cfg dev (((reg, u), a) :: rows) = a.trace cfg dev reg ++ resultTrace cfg dev rows := rfl

/-! ## A table command whose polls end at once -/

section
variable {s : State} {c : TableCmd} {i : Instr} {dev : Nat} {reg : RegNum} {r r' : ReadAnswer} {cs ds : List Word}
  {writes : List ((RegNum × Half) × Word)}

/-- A command that makes both waits ends where its result reads do (R185, R187). -/
theorem exec_completes_of_reads {u : State} {v : Half} {cs' ds' : List Word} {reads : List BusEvent}
    (hi : latchedCommand c = i) (hwf : s.cfg.WF) (hctx : needsContext c = true → s.ctx.valid = true)
    (hr : r.Shows s.cfg false) (hr' : r'.Shows s.cfg false) (hwrites : ∀ row ∈ writes, Ready s.cfg row.2)
    (hdev : (tablePlan s.cfg c).dev = dev)
    (hreg : (tablePlan s.cfg c).opReg = reg) (hcommit : (tablePlan s.cfg c).commit s = writes.map (fun row => row.1))
    (hpost : (tablePlan s.cfg c).readStyle = true ∨ s.cfg.postWaitAll = true)
    (hreads : ∀ evs, readAll (tablePlan s.cfg c).dev (tablePlan s.cfg c).results (busMoved s cs' ds' evs) =
      (.ok (), busMoved u cs ds (evs ++ reads)))
    (hvalue : answerValue (tablePlan s.cfg c).answer u = v)
    (henv : s.env = .script (r.ctrl ++ (writes.map (fun row => row.2) ++ (r'.ctrl ++ cs')))
      (r.data :: r'.data :: ds')) :
    exec i s = .next (answered u .ok v cs ds
      (r.trace s.cfg dev reg ++ (commitTrace s.cfg dev writes ++ (r'.trace s.cfg dev reg ++ reads)))) := by
  subst hi hdev hreg hvalue
  rw [exec_latchedCommand_of_context hctx, resume_pre_enters_post hwf hr hwrites hcommit hpost henv,
    resume_of_ready (s := busMoved s (r'.ctrl ++ cs') (r'.data :: ds') _) hwf hr' (busMoved_env ..), busMoved_busMoved]
  refine congrArg Host.Outcome.next ((finish_tableResult (hreads _)).trans ?_)
  simp only [busMoved_cfg, List.append_assoc]

/-- A command that reads nothing back and answers 0 makes its second wait only under POST_WAIT_ALL (R185). -/
theorem exec_completes_without_results (hi : latchedCommand c = i) (hwf : s.cfg.WF)
    (hctx : needsContext c = true → s.ctx.valid = true) (hr : r.Shows s.cfg false) (hr' : r'.Shows s.cfg false)
    (hwrites : ∀ row ∈ writes, Ready s.cfg row.2) (hdev : (tablePlan s.cfg c).dev = dev)
    (hreg : (tablePlan s.cfg c).opReg = reg) (hcommit : (tablePlan s.cfg c).commit s = writes.map (fun row => row.1))
    (hstyle : (tablePlan s.cfg c).readStyle = false) (hresults : (tablePlan s.cfg c).results = [])
    (hanswer : (tablePlan s.cfg c).answer = none)
    (henv : s.env = .script (r.ctrl ++ (writes.map (fun row => row.2) ++ (whenPostWait s.cfg r'.ctrl ++ cs)))
      (r.data :: (whenPostWait s.cfg [r'.data] ++ ds))) :
    exec i s = .next (answered s .ok 0 cs ds
      (r.trace s.cfg dev reg ++ (commitTrace s.cfg dev writes ++ whenPostWait s.cfg (r'.trace s.cfg dev reg)))) := by
  unfold whenPostWait at henv ⊢
  cases hall : s.cfg.postWaitAll with
  | false =>
    rw [hall] at henv
    subst hi hdev hreg
    rw [exec_latchedCommand_of_context hctx, resume_pre_answers hwf hr hwrites hcommit hstyle hall henv]
    simp
  | true =>
    rw [hall] at henv
    have hreads (evs : List BusEvent) : readAll (tablePlan s.cfg c).dev (tablePlan s.cfg c).results
        (busMoved s cs ds evs) = (.ok (), busMoved s cs ds (evs ++ [])) := by
      rw [hresults, List.append_nil]
      rfl
    rw [exec_completes_of_reads hi hwf hctx hr hr' hwrites hdev hreg hcommit (.inr hall) hreads (v := 0)
      (by rw [hanswer]; rfl) henv, if_pos rfl, List.append_nil]

/-- The five ATU commands that read nothing back (R194 to R196, R198, R199). -/
theorem exec_atu_completes {commit : State → List (RegNum × Half)} (hi : latchedCommand c = i)
    (hplan : tablePlan s.cfg c = atuPlan s.cfg commit) (hwf : s.cfg.WF) (hctx : s.ctx.valid = true)
    (hr : r.Shows s.cfg false) (hr' : r'.Shows s.cfg false) (hwrites : ∀ row ∈ writes, Ready s.cfg row.2)
    (hcommit : commit s = writes.map (fun row => row.1))
    (henv : s.env = .script (r.ctrl ++ (writes.map (fun row => row.2) ++ (whenPostWait s.cfg r'.ctrl ++ cs)))
      (r.data :: (whenPostWait s.cfg [r'.data] ++ ds))) :
    exec i s = .next (answered s .ok 0 cs ds
      (r.trace s.cfg (atuDev s.cfg) s.cfg.atu.operation ++ (commitTrace s.cfg (atuDev s.cfg) writes ++
        whenPostWait s.cfg (r'.trace s.cfg (atuDev s.cfg) s.cfg.atu.operation)))) :=
  exec_completes_without_results hi hwf (fun _ => hctx) hr hr' hwrites (by rw [hplan]; rfl) (by rw [hplan]; rfl)
    (by rw [hplan]; exact hcommit) (by rw [hplan]; rfl) (by rw [hplan]; rfl) (by rw [hplan]; rfl) henv

end

/-! ## The result reads of a table command -/

section
variable {s u : State} {c : TableCmd} {dev : Nat} {cs ds : List Word}

/-- Result reads that do not end the reading, all of them made (R202). -/
theorem readAll_results {got : List ((RegNum × ResultUse) × ReadAnswer)} (hwf : s.cfg.WF)
    (hgot : ∀ row ∈ got, row.2.Prompt s.cfg ∧ endsReadBack s.cfg row.1.2 row.2.value = false)
    (hdev : (tablePlan s.cfg c).dev = dev) (hresults : (tablePlan s.cfg c).results = got.map (fun row => row.1))
    (hstored : resultsStored s got = u) (evs : List BusEvent) :
    readAll (tablePlan s.cfg c).dev (tablePlan s.cfg c).results
        (busMoved s (got.flatMap (fun row => row.2.ctrl) ++ cs) (got.map (fun row => row.2.data) ++ ds) evs) =
      (.ok (), busMoved u cs ds (evs ++ resultTrace s.cfg dev got)) := by
  subst hdev hstored
  exact results_of_ready hwf hgot (hresults.trans (List.append_nil _).symm) evs

/-- A first result that ends the reading leaves the others unread (R200). -/
theorem readAll_of_ended {row : RegNum × ResultUse} {later : List (RegNum × ResultUse)} {a : ReadAnswer}
    (hwf : s.cfg.WF) (ha : a.Prompt s.cfg) (hend : endsReadBack s.cfg row.2 a.value = true)
    (hdev : (tablePlan s.cfg c).dev = dev) (hresults : (tablePlan s.cfg c).results = row :: later)
    (hstored : useResult row.2 a.value s = u) (evs : List BusEvent) :
    readAll (tablePlan s.cfg c).dev (tablePlan s.cfg c).results (busMoved s (a.ctrl ++ cs) (a.data :: ds) evs) =
      (.ok (), busMoved u cs ds (evs ++ a.trace s.cfg dev row.1)) := by
  subst hdev hstored
  have hread := smiRead_prompt (s := busMoved s (a.ctrl ++ cs) (a.data :: ds) evs) (reg := row.1) hwf.bus
    (addressLegal_tablePlan hwf c) ha (busMoved_env ..)
  rw [busMoved_busMoved] at hread
  rw [hresults, readAll_cons_of_ok hread, busMoved_cfg, hend, if_pos rfl, useResult_busMoved]
  rfl

end

/-! ## The registers of a key and of an entry -/

/-- The three MAC registers follow each other from ATU_MAC_BASE (R191). -/
theorem macReg_zero (cfg : Config) : macReg cfg 0 = cfg.atu.macBase := BitVec.add_zero _
theorem macReg_one (cfg : Config) : macReg cfg 1 = cfg.atu.macBase + 1 := rfl
theorem macReg_two (cfg : Config) : macReg cfg 2 = cfg.atu.macBase + 2 := rfl

theorem lookupKey_eq (s : State) : lookupKey s =
    [(s.cfg.atu.macBase, readE 0 s), (s.cfg.atu.macBase + 1, readE 1 s), (s.cfg.atu.macBase + 2, readE 2 s),
     (s.cfg.atu.fid, readE 3 s &&& 0x0FFF)] := by
  rw [lookupKey, macReg_zero, macReg_one, macReg_two, databaseNumber]

theorem macResults_eq (cfg : Config) : macResults cfg =
    [(cfg.atu.macBase, .store 0), (cfg.atu.macBase + 1, .store 1), (cfg.atu.macBase + 2, .store 2)] := by
  rw [macResults, macReg_zero, macReg_one, macReg_two]

/-! ## The commands that read nothing back -/

/-- Settles O35: the flush word, then the operation word. -/
theorem atuFlushCompletes : Obligations.AtuFlushCompletes := by
  intro s r r' c0 c1 cs ds hwf hctx hr hr' hc0 hc1 henv
  simp only [List.append_assoc, List.cons_append, List.nil_append] at henv
  refine ⟨?_, ?_⟩
  · have hdone := exec_atu_completes (c := .atuFlushAll) (i := .atuFlushAll) rfl rfl hwf hctx hr hr'
      (writes := [((s.cfg.atu.data, flushData s), c0), ((s.cfg.atu.operation, atuWord s.cfg.atu.opFlushAll s), c1)])
      (by simp [hc0, hc1]) rfl henv
    simpa using hdone
  · have hdone := exec_atu_completes (c := .atuFlushUnlocked) (i := .atuFlushUnlocked) rfl rfl hwf hctx hr hr'
      (writes := [((s.cfg.atu.data, flushData s), c0),
        ((s.cfg.atu.operation, atuWord s.cfg.atu.opFlushUnlocked s), c1)])
      (by simp [hc0, hc1]) rfl henv
    simpa using hdone

/-- Settles O36: the flush word, the database number, then the operation word. -/
theorem atuFlushDatabaseCompletes : Obligations.AtuFlushDatabaseCompletes := by
  intro s r r' c0 c1 c2 cs ds hwf hctx hr hr' hc henv
  simp only [List.append_assoc, List.cons_append, List.nil_append] at henv
  refine ⟨?_, ?_⟩
  · have hdone := exec_atu_completes (c := .atuFlushAllDb) (i := .atuFlushAllDb) rfl rfl hwf hctx hr hr'
      (writes := [((s.cfg.atu.data, flushData s), c0), ((s.cfg.atu.fid, readE 3 s &&& 0x0FFF), c1),
        ((s.cfg.atu.operation, atuWord s.cfg.atu.opFlushAllDb s), c2)])
      (by simpa using hc) rfl henv
    simpa using hdone
  · have hdone := exec_atu_completes (c := .atuFlushUnlockedDb) (i := .atuFlushUnlockedDb) rfl rfl hwf hctx hr hr'
      (writes := [((s.cfg.atu.data, flushData s), c0), ((s.cfg.atu.fid, readE 3 s &&& 0x0FFF), c1),
        ((s.cfg.atu.operation, atuWord s.cfg.atu.opFlushUnlockedDb s), c2)])
      (by simpa using hc) rfl henv
    simpa using hdone

/-- Settles O37: the data word, the key, then the operation word. -/
theorem atuLoadPurgeCompletes : Obligations.AtuLoadPurgeCompletes := by
  intro s r r' c0 c1 c2 c3 c4 c5 cs ds hwf hctx hr hr' hc henv
  simp only [List.append_assoc, List.cons_append, List.nil_append] at henv
  have hdone := exec_atu_completes (c := .atuLoadPurge) (i := .atuLoadPurge) rfl rfl hwf hctx hr hr'
    (writes := [((s.cfg.atu.data, packAtuData s), c0), ((s.cfg.atu.macBase, readE 0 s), c1),
      ((s.cfg.atu.macBase + 1, readE 1 s), c2), ((s.cfg.atu.macBase + 2, readE 2 s), c3),
      ((s.cfg.atu.fid, readE 3 s &&& 0x0FFF), c4), ((s.cfg.atu.operation, atuWord s.cfg.atu.opLoadPurge s), c5)])
    (by simpa using hc) (by rw [lookupKey_eq]; rfl) henv
  simpa using hdone

/-- Settles O40: the datum, then the operation word; no context is asked for. -/
theorem pvtWriteCompletes : Obligations.PvtWriteCompletes := by
  intro s r r' c0 c1 cs ds hwf hr hr' hc0 hc1 henv
  simp only [List.append_assoc, List.cons_append, List.nil_append] at henv
  have hdone := exec_completes_without_results (c := .pvtWrite) (i := .pvtWrite) (dev := pvtDev s.cfg)
    (reg := s.cfg.pvt.addr)
    (writes := [((s.cfg.pvt.data, readE 13 s), c0),
      ((s.cfg.pvt.addr, opWord s.cfg.pvt.opWrite (readE 12 s &&& s.cfg.pvt.addrMask)), c1)])
    rfl hwf (fun h => nomatch h) hr hr' (by simp [hc0, hc1]) rfl rfl rfl rfl rfl rfl henv
  simpa using hdone

/-! ## The commands that read results -/

/-- Only a violation's kind can end the reading (R200). -/
theorem endsReadBack_of_ne {u : ResultUse} (h : u ≠ .storeKind) (cfg : Config) (v : Half) :
    endsReadBack cfg u v = false := by
  simp [endsReadBack, h]

/-- Settles O41: the operation word, then the cell. -/
theorem pvtReadCompletes : Obligations.PvtReadCompletes := by
  intro s r r' rd c0 cs ds hwf hr hr' hprompt hc0 henv
  simp only [List.append_assoc, List.cons_append, List.nil_append] at henv
  have hreads := readAll_results (c := .pvtRead) (cs := cs) (ds := ds) (got := [((s.cfg.pvt.data, .store 13), rd)]) hwf
    (by simpa [endsReadBack_of_ne] using hprompt) (dev := pvtDev s.cfg) rfl rfl (u := writeE 13 rd.value s) rfl
  have hdone := exec_completes_of_reads (c := .pvtRead) (i := .pvtRead) (dev := pvtDev s.cfg) (reg := s.cfg.pvt.addr)
    (writes := [((s.cfg.pvt.addr, opWord s.cfg.pvt.opRead (readE 12 s &&& s.cfg.pvt.addrMask)), c0)])
    rfl hwf (fun h => nomatch h) hr hr' (by simpa using hc0) rfl rfl rfl (.inl rfl) hreads
    (readE_writeE_same 13 rd.value s) henv
  simpa using hdone

/-- Settles O38: the key and the operation word, then the entry. -/
theorem atuGetNextCompletes : Obligations.AtuGetNextCompletes := by
  intro s r r' rd r0 r1 r2 c0 c1 c2 c3 c4 cs ds hwf hctx hr hr' hc hprompt henv
  simp only [List.append_assoc, List.cons_append, List.nil_append] at henv
  have hreads := readAll_results (c := .atuGetNext) (cs := cs) (ds := ds)
    (got := [((s.cfg.atu.data, .unpackEntry), rd), ((s.cfg.atu.macBase, .store 0), r0),
      ((s.cfg.atu.macBase + 1, .store 1), r1), ((s.cfg.atu.macBase + 2, .store 2), r2)]) hwf
    (by simpa [endsReadBack_of_ne] using hprompt) (dev := atuDev s.cfg) rfl
    (congrArg (_ :: ·) (macResults_eq s.cfg)) (u := storedEntry s rd.value r0.value r1.value r2.value) rfl
  have hdone := exec_completes_of_reads (c := .atuGetNext) (i := .atuGetNext) (dev := atuDev s.cfg)
    (reg := s.cfg.atu.operation)
    (writes := [((s.cfg.atu.macBase, readE 0 s), c0), ((s.cfg.atu.macBase + 1, readE 1 s), c1),
      ((s.cfg.atu.macBase + 2, readE 2 s), c2), ((s.cfg.atu.fid, readE 3 s &&& 0x0FFF), c3),
      ((s.cfg.atu.operation, atuWord s.cfg.atu.opGetNext s), c4)])
    rfl hwf (fun _ => hctx) hr hr' (by simpa using hc) rfl rfl
    (congrArg (· ++ [(s.cfg.atu.operation, atuWord s.cfg.atu.opGetNext s)]) (lookupKey_eq s)) (.inl rfl) hreads
    (v := 0) rfl henv
  simpa using hdone

/-- The kind a violation is stored with is still there once the entry is (R200). -/
theorem readE_storedViolation (s : State) (kind f d m0 m1 m2 : Half) :
    readE 11 (storedViolation s kind f d m0 m1 m2) = kind := by
  simp [storedViolation, readE_writeE_of_ne]

/-- The results of ATU_SVC_VIOL, in their order (R200). -/
theorem results_atuSvcViol (cfg : Config) : (tablePlan cfg .atuSvcViol).results =
    [(cfg.atu.operation, .storeKind), (cfg.atu.fid, .storeDatabase), (cfg.atu.data, .storeState),
      (cfg.atu.macBase, .store 0), (cfg.atu.macBase + 1, .store 1), (cfg.atu.macBase + 2, .store 2)] :=
  congrArg (fun mac => (cfg.atu.operation, ResultUse.storeKind) :: (cfg.atu.fid, ResultUse.storeDatabase) ::
    (cfg.atu.data, ResultUse.storeState) :: mac) (macResults_eq cfg)

/-- Settles O39: the operation word, then the cause, and the violating entry unless the cause ends the reading. -/
theorem atuSvcViolCompletes : Obligations.AtuSvcViolCompletes := by
  intro s r r' ro rf rd r0 r1 r2 c0 cs ds kind hwf hctx hr hr' hc0 hprompt hkind
  subst hkind
  have hdone {u : State} {v : Half} {cs' ds' : List Word} {reads : List BusEvent} :=
    exec_completes_of_reads (c := .atuSvcViol) (i := .atuSvcViol) (dev := atuDev s.cfg) (reg := s.cfg.atu.operation)
      (writes := [((s.cfg.atu.operation, atuWord s.cfg.atu.opServiceViolations s), c0)]) (u := u) (v := v) (cs' := cs')
      (ds' := ds') (reads := reads) (cs := cs) (ds := ds)
      rfl hwf (fun _ => hctx) hr hr' (by simpa using hc0) rfl rfl rfl (.inl rfl)
  refine ⟨fun hgoes henv => ?_, fun hnone hskip henv => ?_⟩ <;>
    simp only [List.append_assoc, List.cons_append, List.nil_append] at henv
  · have hcause : endsReadBack s.cfg .storeKind ro.value = false := by simpa [endsReadBack] using hgoes
    have hreads := readAll_results (c := .atuSvcViol) (cs := cs) (ds := ds)
      (got := [((s.cfg.atu.operation, .storeKind), ro), ((s.cfg.atu.fid, .storeDatabase), rf),
        ((s.cfg.atu.data, .storeState), rd), ((s.cfg.atu.macBase, .store 0), r0),
        ((s.cfg.atu.macBase + 1, .store 1), r1), ((s.cfg.atu.macBase + 2, .store 2), r2)]) hwf
      (by simpa [hcause, endsReadBack_of_ne] using hprompt) (dev := atuDev s.cfg) rfl (results_atuSvcViol s.cfg)
      (u := storedViolation s (violKind (violNibble s.cfg ro.value)) rf.value rd.value r0.value r1.value r2.value) rfl
    simpa using hdone hreads (readE_storedViolation ..) henv
  · have hcause : endsReadBack s.cfg .storeKind ro.value = true := by simp [endsReadBack, hnone, hskip]
    have hreads := readAll_of_ended (c := .atuSvcViol) (cs := cs) (ds := ds) hwf (hprompt ro List.mem_cons_self) hcause
      (dev := atuDev s.cfg) rfl (results_atuSvcViol s.cfg) (u := writeE 11 (violKind (violNibble s.cfg ro.value)) s) rfl
    simpa [hnone] using hdone hreads (readE_writeE_same ..) henv

end Sys2Proof.Machine

/-! PROOFS. The port-configuration commands: their checks, and the field write of the nine that are described by one
(46_port_config.md R235 to R247, R250; 60_exceptions.md R268, R275). -/

namespace Sys2Proof.Machine

/-! ## The checks -/

section
variable {s : State} {op : PortOp}

theorem portChecks_of_illegal_op (hctx : s.ctx.valid = true) (hop : pcfgLegal s.cfg s.ctx.deviceId op = false)
    (legal : Bool) (run : State → State) : portChecks op legal run s = raise .notSupported s := by
  simp [portChecks, portStatus, hctx, hop]

theorem portChecks_of_illegal_argument (hctx : s.ctx.valid = true) (hop : pcfgLegal s.cfg s.ctx.deviceId op = true)
    (run : State → State) : portChecks op false run s = raise .badParameter s := by
  simp [portChecks, portStatus, hctx, hop]

theorem portChecks_of_legal (hctx : s.ctx.valid = true) (hop : pcfgLegal s.cfg s.ctx.deviceId op = true)
    (run : State → State) : portChecks op true run s = run s := by
  simp [portChecks, portStatus, hctx, hop]

end

/-! ## What the commands are behind their checks -/

section
variable {s : State} {port : BitVec 8} {v : Half}

/-- The eight field commands are `pcfg` with their descriptors (R237 to R245). -/
theorem exec_of_mem_fieldForms {f : Instr × PortOp × FieldDesc} (hf : f ∈ fieldForms s.cfg port v) :
    exec f.1 s = .next (pcfg f.2.1 f.2.2 port v s) := by
  simp only [fieldForms, List.mem_cons, List.not_mem_nil, or_false] at hf
  rcases hf with rfl | rfl | rfl | rfl | rfl | rfl | rfl | rfl <;> rfl

/-- A described field write at an address that fails the check does nothing (60_exceptions.md R268). -/
theorem writeDescribed_of_illegal {d : FieldDesc}
    (ha : addressLegal s.cfg (mapAddress s.cfg port.toNat d.kind) = false) (x answer : Half) :
    writeDescribed d port x answer s = raise .invalidAddress s := by
  have hwrite := writeField_of_illegal ha (regNumber s.cfg d.reg) d.off d.len x
  rw [writeDescribed, finish, andThen_of_error hwrite]

/-- PHY_POWER's sequence fails its first address check with nothing done (R249; 60_exceptions.md R268). -/
theorem powerSequence_of_illegal {dev : Nat} (ha : addressLegal s.cfg dev = false) (v : Half) :
    powerSequence dev v s = raise .invalidAddress s := by
  rw [powerSequence, smiWrite_of_illegal ha]

/-- Each of the ten commands is its checks and a piece that ends at once at an address that fails its own check. -/
theorem exec_of_mem_portForms {f : Instr × PortOp × Bool × Nat} (hf : f ∈ portForms s.cfg port v) :
    ∃ run, exec f.1 s = .next (portChecks f.2.1 f.2.2.1 run s) ∧
      (addressLegal s.cfg f.2.2.2 = false → run s = raise .invalidAddress s) := by
  simp only [portForms, List.mem_append, List.mem_map, List.mem_cons, List.not_mem_nil, or_false] at hf
  rcases hf with ⟨g, hg, rfl⟩ | rfl | rfl
  · exact ⟨_, exec_of_mem_fieldForms hg, fun ha => writeDescribed_of_illegal ha v 0⟩
  · exact ⟨_, rfl, fun ha => writeDescribed_of_illegal ha _ _⟩
  · exact ⟨_, rfl, fun ha => powerSequence_of_illegal ha v⟩

end

/-- Settles O51: the four outcomes of the checks, the last one the command's first address check. -/
theorem portChecksInOrder : Obligations.PortChecksInOrder := by
  intro s port v f hf
  obtain ⟨run, hexec, hwide⟩ := exec_of_mem_portForms hf
  rw [hexec]
  refine ⟨fun hctx => ?_, fun hctx hop => ?_, fun hctx hop harg => ?_, fun hctx hop harg hwf hdev => ?_⟩
  · rw [portChecks_of_invalid hctx]; rfl
  · rw [portChecks_of_illegal_op hctx hop]; rfl
  · rw [harg, portChecks_of_illegal_argument hctx hop]; rfl
  · rw [harg, portChecks_of_legal hctx hop, hwide (addressLegal_of_ge hwf hdev)]; rfl

/-! ## The commands that write one field -/

section
variable {s : State} {r : ReadAnswer} {c : Word} {cs ds : List Word}

/-- A field write whose polls end at once takes one answer for its read and one for its write (42_field_codec.md
R151). -/
theorem writeField_prompt {dev : Nat} {reg : RegNum} (hwf : s.cfg.bus.WF) (ha : addressLegal s.cfg dev = true)
    (hr : r.Prompt s.cfg) (hc : Ready s.cfg c) (off : BitVec 4) (len : BitVec 5) (val : Half)
    (henv : s.env = .script (r.ctrl ++ c :: cs) (r.data :: ds)) :
    writeField dev reg off len val s = (.ok (), busMoved s cs ds
      (r.trace s.cfg dev reg ++ writeTrace s.cfg dev reg (mergeField r.value off len val) c)) :=
  writeField_ready hwf ha hr.1 hr.2 hc henv

/-- A described field write that completes answers the value it is given to answer (R235). -/
theorem writeDescribed_prompt {d : FieldDesc} {port : BitVec 8} (hwf : s.cfg.bus.WF)
    (hdev : mapAddress s.cfg port.toNat d.kind < 32) (hr : r.Prompt s.cfg) (hc : Ready s.cfg c) (v answer : Half)
    (henv : s.env = .script (r.ctrl ++ c :: cs) (r.data :: ds)) :
    writeDescribed d port v answer s = answered s .ok answer cs ds
      (r.trace s.cfg (mapAddress s.cfg port.toNat d.kind) (regNumber s.cfg d.reg) ++
       writeTrace s.cfg (mapAddress s.cfg port.toNat d.kind) (regNumber s.cfg d.reg)
         (mergeField r.value d.off d.len v) c) :=
  finish_busMoved (andThen_of_ok (writeField_prompt hwf (addressLegal_of_lt hwf hdev) hr hc d.off d.len v henv))

end

/-- Settles O47: the checks pass, and the described field is written. -/
theorem portFieldCommandsWriteTheField : Obligations.PortFieldCommandsWriteTheField := by
  intro s port v r c cs ds f hf hwf hctx hop harg hdev hr hc henv
  rw [exec_of_mem_fieldForms hf, pcfg, harg, portChecks_of_legal hctx hop,
    writeDescribed_prompt hwf.bus hdev hr hc v 0 henv]

/-! ## PORT_JUMBO -/

theorem jumboMode_of_le {size : Half} (h : size.toNat ≤ 1522) : jumboMode size = .a := if_pos h

theorem jumboMode_of_between {size : Half} (hlow : 1522 < size.toNat) (hhigh : size.toNat ≤ 2048) :
    jumboMode size = .b := by
  rw [jumboMode, if_neg (Nat.not_le.mpr hlow), if_pos hhigh]

theorem jumboMode_of_gt {size : Half} (h : 2048 < size.toNat) : jumboMode size = .c := by
  rw [jumboMode, if_neg (by omega), if_neg (Nat.not_le.mpr h)]

/-- PORT_JUMBO is its checks, no size being illegal, and the field write that answers the code it writes (R247). -/
theorem exec_portJumbo (port : BitVec 8) (size : Half) (s : State) :
    exec (.portJumbo port size) s = .next (portChecks .portJumbo true (writeDescribed s.cfg.port.descJumbo port
      (jumboCode s.cfg (jumboMode size)) (jumboCode s.cfg (jumboMode size))) s) := rfl

/-- Settles O48: the three ranges of sizes, and the field write of the mode's code. -/
theorem portJumboWritesTheModeCode : Obligations.PortJumboWritesTheModeCode := by
  refine ⟨⟨fun _ => jumboMode_of_le, fun _ => jumboMode_of_between, fun _ => jumboMode_of_gt, rfl, rfl, rfl⟩, ?_⟩
  intro s port size r c cs ds hwf hctx hop hdev hr hc henv
  rw [exec_portJumbo, portChecks_of_legal hctx hop, writeDescribed_prompt hwf.bus hdev hr hc _ _ henv]

end Sys2Proof.Machine

/-! PROOFS. PHY_POWER on a scripted environment: the page, the rows of POWER_BITS, the page restored, after a failure too
(46_port_config.md R249; 60_exceptions.md R272; 70_reset_and_hazards.md R305). -/

namespace Sys2Proof.Machine

/-! ## The pieces of the sequence -/

section
variable {s : State} {dev : Nat} {v : Half} {cs ds : List Word}

/-- PHY_POWER whose checks pass is its sequence at the port's own address. -/
theorem exec_phyPower {port : BitVec 8} (hctx : s.ctx.valid = true)
    (hop : pcfgLegal s.cfg s.ctx.deviceId .phyPower = true) (hv : v.toNat ≤ 1) :
    exec (.phyPower port v) s = .next (powerSequence port.toNat v s) := by
  have hexec : exec (.phyPower port v) s = .next (portChecks .phyPower (decide (v.toNat ≤ 1))
      (powerSequence (mapAddress s.cfg port.toNat .phy) v) s) := rfl
  rw [hexec, decide_eq_true hv, portChecks_of_legal hctx hop]
  rfl

/-- A row whose field write is made is followed by the later rows. -/
theorem powerBits_cons_of_ok {b : PowerBit} {t : State} (h : writeField dev (regNumber s.cfg b.reg) b.off b.len
      (if v = 0 then b.down else b.up) s = (.ok (), t)) (later : List PowerBit) :
    powerBits dev v (b :: later) s = powerBits dev v later t := andThen_of_ok h

/-- A row whose field write fails ends the rows (60_exceptions.md R272). -/
theorem powerBits_cons_of_error {b : PowerBit} {t : State} {st : Status} (h : writeField dev (regNumber s.cfg b.reg)
      b.off b.len (if v = 0 then b.down else b.up) s = (.error st, t)) (later : List PowerBit) :
    powerBits dev v (b :: later) s = (.error st, t) := andThen_of_error h

/-- The rows of POWER_BITS made one after the other; the later ones run from there. -/
theorem powerBits_prompt {rows : List (PowerBit × ReadAnswer × Word)} (hwf : s.cfg.bus.WF)
    (ha : addressLegal s.cfg dev = true) (hrows : ∀ row ∈ rows, row.2.1.Prompt s.cfg ∧ Ready s.cfg row.2.2)
    (later : List PowerBit) (evs : List BusEvent) :
    powerBits dev v (rows.map (fun row => row.1) ++ later)
        (busMoved s (rows.flatMap (fun row => row.2.1.ctrl ++ [row.2.2]) ++ cs)
          (rows.map (fun row => row.2.1.data) ++ ds) evs) =
      powerBits dev v later (busMoved s cs ds (evs ++ powerTrace s.cfg dev v rows)) := by
  induction rows generalizing evs with
  | nil => simp [powerTrace]
  | cons row rows ih =>
    obtain ⟨b, r, c⟩ := row
    obtain ⟨hr, hc⟩ := hrows _ List.mem_cons_self
    have hfirst := writeField_prompt (reg := regNumber s.cfg b.reg)
      (s := busMoved s (r.ctrl ++ c :: (rows.flatMap (fun row => row.2.1.ctrl ++ [row.2.2]) ++ cs))
        (r.data :: (rows.map (fun row => row.2.1.data) ++ ds)) evs)
      hwf ha hr hc b.off b.len (if v = 0 then b.down else b.up) rfl
    rw [busMoved_busMoved] at hfirst
    have hrest := ih (fun row hrow => hrows row (List.mem_cons_of_mem _ hrow))
    simp only [List.map_cons, List.flatMap_cons, List.cons_append, List.append_assoc, List.nil_append]
    rw [powerBits_cons_of_ok hfirst, hrest]
    simp [powerTrace]

/-- The page restored: the first failure is the answer, or Ok. -/
theorem restorePage_ready {c : Word} (hwf : s.cfg.bus.WF) (ha : addressLegal s.cfg dev = true) (hc : Ready s.cfg c)
    (first : Status) (henv : s.env = .script (c :: cs) ds) :
    restorePage dev first s = answered s first 0 cs ds
      (writeTrace s.cfg dev s.cfg.phy.pageReg s.cfg.phy.pageDefault c) := by
  rw [restorePage_eq, smiWrite_ready hwf ha hc henv]
  cases first <;> rfl

/-- A restore that times out answers Timeout, whether it is the first failure or a row's Timeout was. -/
theorem restorePage_timesOut {ctrl : List Word} {evs : List BusEvent} {first : Status}
    (ha : addressLegal s.cfg dev = true) (hfirst : first = .ok ∨ first = .timeout) (h : WriteTimesOut s.cfg ctrl evs)
    (henv : s.env = .script (ctrl ++ cs) ds) : restorePage dev first s = answered s .timeout 0 cs ds evs := by
  rw [restorePage_eq, smiWrite_timesOut ha _ h henv]
  rcases hfirst with rfl | rfl <;> rfl

end

/-! ## The sequence -/

section
variable {s : State} {dev : Nat} {v : Half} {cp : Word} {done : List (PowerBit × ReadAnswer × Word)}
  {ctrl data cs ds : List Word} {evs : List BusEvent}

/-- A page write that times out ends the command: nothing is restored. -/
theorem powerSequence_page_timesOut (ha : addressLegal s.cfg dev = true) (h : WriteTimesOut s.cfg ctrl evs)
    (henv : s.env = .script (ctrl ++ cs) ds) : powerSequence dev v s = answered s .timeout 0 cs ds evs := by
  rw [powerSequence, smiWrite_timesOut ha _ h henv]
  rfl

/-- The page entered and some rows made: the sequence goes on with the later rows and ends with the restore. -/
theorem powerSequence_of_rows (hwf : s.cfg.bus.WF) (ha : addressLegal s.cfg dev = true) (hcp : Ready s.cfg cp)
    (hdone : ∀ row ∈ done, row.2.1.Prompt s.cfg ∧ Ready s.cfg row.2.2) {later : List PowerBit}
    (hbits : s.cfg.phy.powerBits = done.map (fun row => row.1) ++ later) {r : Except Status Unit} {u : State}
    (hlater : powerBits dev v later (busMoved s cs ds
      (writeTrace s.cfg dev s.cfg.phy.pageReg s.cfg.phy.powerPage cp ++ powerTrace s.cfg dev v done)) = (r, u))
    (henv : s.env = .script (cp :: (done.flatMap (fun row => row.2.1.ctrl ++ [row.2.2]) ++ cs))
      (done.map (fun row => row.2.1.data) ++ ds)) :
    powerSequence dev v s = restorePage dev (outcomeStatus r) u := by
  have hpage := smiWrite_ready (reg := s.cfg.phy.pageReg) (x := s.cfg.phy.powerPage) hwf ha hcp henv
  have hrows := powerBits_prompt (s := s) (v := v) (cs := cs) (ds := ds) hwf ha hdone later
    (writeTrace s.cfg dev s.cfg.phy.pageReg s.cfg.phy.powerPage cp)
  rw [← hbits] at hrows
  simp only [powerSequence, hpage, busMoved_cfg, hrows.trans hlater]

/-- All the rows made, the restore follows with no failure before it. -/
theorem powerSequence_of_all_rows (hwf : s.cfg.bus.WF) (ha : addressLegal s.cfg dev = true) (hcp : Ready s.cfg cp)
    (hdone : ∀ row ∈ done, row.2.1.Prompt s.cfg ∧ Ready s.cfg row.2.2)
    (hbits : done.map (fun row => row.1) = s.cfg.phy.powerBits)
    (henv : s.env = .script (cp :: (done.flatMap (fun row => row.2.1.ctrl ++ [row.2.2]) ++ cs))
      (done.map (fun row => row.2.1.data) ++ ds)) :
    powerSequence dev v s = restorePage dev .ok (busMoved s cs ds
      (writeTrace s.cfg dev s.cfg.phy.pageReg s.cfg.phy.powerPage cp ++ powerTrace s.cfg dev v done)) :=
  powerSequence_of_rows (r := .ok ()) hwf ha hcp hdone (hbits.symm.trans (List.append_nil _).symm) rfl henv

/-- A row that times out ends the rows: the later ones are not touched, and the restore follows a Timeout. -/
theorem powerSequence_of_row_timesOut (hwf : s.cfg.bus.WF) (ha : addressLegal s.cfg dev = true)
    (hcp : Ready s.cfg cp) (hdone : ∀ row ∈ done, row.2.1.Prompt s.cfg ∧ Ready s.cfg row.2.2) {b : PowerBit}
    {later : List PowerBit} (hbits : s.cfg.phy.powerBits = done.map (fun row => row.1) ++ b :: later)
    (h : FieldWriteTimesOut s.cfg dev (regNumber s.cfg b.reg) ctrl data evs)
    (henv : s.env = .script (cp :: (done.flatMap (fun row => row.2.1.ctrl ++ [row.2.2]) ++ (ctrl ++ cs)))
      (done.map (fun row => row.2.1.data) ++ (data ++ ds))) :
    powerSequence dev v s = restorePage dev .timeout (busMoved s cs ds
      (writeTrace s.cfg dev s.cfg.phy.pageReg s.cfg.phy.powerPage cp ++ powerTrace s.cfg dev v done ++ evs)) := by
  have hrow := writeField_timesOut (s := busMoved s (ctrl ++ cs) (data ++ ds)
    (writeTrace s.cfg dev s.cfg.phy.pageReg s.cfg.phy.powerPage cp ++ powerTrace s.cfg dev v done))
    hwf ha b.off b.len (if v = 0 then b.down else b.up) h rfl
  rw [busMoved_busMoved] at hrow
  exact powerSequence_of_rows (r := .error .timeout) hwf ha hcp hdone hbits (powerBits_cons_of_error hrow later) henv

end

/-! ## The command -/

/-- Settles O49: every row made, and the restore made with no failure before it. -/
theorem phyPowerWritesPageBitsRestore : Obligations.PhyPowerWritesPageBitsRestore := by
  intro s port v rows cp cr cs ds hwf hctx hop hv hdev hbits hrows hcp hcr henv
  have ha := addressLegal_of_lt hwf.bus hdev
  rw [exec_phyPower hctx hop hv, powerSequence_of_all_rows hwf.bus ha hcp hrows hbits henv,
    restorePage_ready (s := busMoved s (cr :: cs) ds _) hwf.bus ha hcr _ rfl, answered_busMoved]
  rfl

/-- Settles O50: the page write, a row or the restore times out; a row's Timeout stays the answer whatever becomes of
the restore. -/
theorem phyPowerRestoresThePageAfterFailure : Obligations.PhyPowerRestoresThePageAfterFailure := by
  intro s port v cp done ctrl data evs cs ds hwf hctx hop hv hdev hcp hdone
  have ha := addressLegal_of_lt hwf.bus hdev
  rw [exec_phyPower hctx hop hv]
  refine ⟨fun h henv => ?_, fun b later hbits h => ⟨fun cr hcr henv => ?_, fun ctrl' evs' h' henv => ?_⟩,
    fun hbits h henv => ?_⟩
  · rw [powerSequence_page_timesOut ha h henv]
  · simp only [List.append_assoc] at henv
    rw [powerSequence_of_row_timesOut hwf.bus ha hcp hdone hbits h henv,
      restorePage_ready (s := busMoved s (cr :: cs) ds _) hwf.bus ha hcr _ rfl, answered_busMoved]
    rfl
  · simp only [List.append_assoc] at henv
    rw [powerSequence_of_row_timesOut hwf.bus ha hcp hdone hbits h henv,
      restorePage_timesOut (s := busMoved s (ctrl' ++ cs) ds _) ha (.inr rfl) h' rfl, answered_busMoved]
  · simp only [List.append_assoc] at henv
    rw [powerSequence_of_all_rows hwf.bus ha hcp hdone hbits henv,
      restorePage_timesOut (s := busMoved s (ctrl ++ cs) ds _) ha (.inl rfl) h rfl, answered_busMoved]

end Sys2Proof.Machine

/-! PROOFS. The statuses a command answers, and the value that goes with a failure (60_exceptions.md R273;
30_encoding.md R86): what the pieces of a command at one device can fail with, then the answers they end in. -/

namespace Sys2Proof.Machine

/-! ## What a piece of a command at one device fails with -/

/-- What a transport operation at `dev` can fail with: Timeout, and InvalidAddress where the address check does not pass
(41_bus_transport.md R130, R131). -/
def accessFailures (cfg : Config) (dev : Nat) : List Status :=
  .timeout :: if addressLegal cfg dev then [] else [.invalidAddress]

theorem accessFailures_eq {cfg : Config} (h : cfg.bus.WF) (dev : Nat) :
    accessFailures cfg dev = .timeout :: if dev < 32 then [] else [.invalidAddress] := by
  simp [accessFailures, addressLegal_eq h]

theorem timeout_mem_accessFailures (cfg : Config) (dev : Nat) : .timeout ∈ accessFailures cfg dev := List.mem_cons_self

theorem invalidAddress_mem_accessFailures {cfg : Config} {dev : Nat} (h : addressLegal cfg dev = false) :
    .invalidAddress ∈ accessFailures cfg dev := by
  simp [accessFailures, h]

/-- The end `p` of a piece run from `s`: no response is delivered yet, and a failure is one of `sts`. -/
structure EndsWithin {α : Type} (sts : List Status) (s : State) (p : Except Status α × State) : Prop where
  cfg : p.2.cfg = s.cfg
  response : p.2.response = s.response
  failure : ∀ st, p.1 = .error st → st ∈ sts

/-- A piece of a command that, under the configuration `cfg`, fails with none but `sts`. -/
def FailsWithin {α : Type} (sts : List Status) (cfg : Config) (m : Bus α) : Prop :=
  ∀ s, s.cfg = cfg → EndsWithin sts s (m s)

section Pieces
variable {cfg : Config} {sts : List Status}

theorem failsWithin_give {α : Type} (f : State → α) : FailsWithin sts cfg fun s => give (f s) s :=
  fun _ _ => ⟨rfl, rfl, nofun⟩

theorem FailsWithin.andThen {α β : Type} {m : Bus α} {k : α → Bus β} (hm : FailsWithin sts cfg m)
    (hk : ∀ a, FailsWithin sts cfg (k a)) : FailsWithin sts cfg (andThen m k) := by
  intro s hs
  have hfirst := hm s hs
  rcases andThen_cases m k s with ⟨st, t, h, e⟩ | ⟨a, t, h, e⟩ <;> rw [h] at hfirst <;> rw [e]
  · exact ⟨hfirst.cfg, hfirst.response, fun _ hst => hfirst.failure _ (by cases hst; rfl)⟩
  · have hrest := hk a t (hfirst.cfg.trans hs)
    exact ⟨hrest.cfg.trans hfirst.cfg, hrest.response.trans hfirst.response, hrest.failure⟩

variable (cfg) (dev : Nat)

/-- A transport operation's own failures are those of R130. -/
theorem BusPiece.failsWithin {α : Type} {m : Bus α} (hbus : BusPiece m)
    (hm : ∀ {s t st}, m s = (.error st, t) →
      (st = .invalidAddress ∧ t = s ∧ addressLegal s.cfg dev = false) ∨ st = .timeout) :
    FailsWithin (accessFailures cfg dev) cfg m := by
  rintro s rfl
  refine ⟨(hbus s).cfg, (hbus s).response, fun st hst => ?_⟩
  rcases hm (Prod.ext hst rfl) with ⟨rfl, -, hlegal⟩ | rfl
  · exact invalidAddress_mem_accessFailures hlegal
  · exact timeout_mem_accessFailures _ _

theorem failsWithin_smiRead (reg : RegNum) : FailsWithin (accessFailures cfg dev) cfg (smiRead dev reg) :=
  (busPiece_smiRead dev reg).failsWithin cfg dev smiRead_error

theorem failsWithin_smiWrite (reg : RegNum) (v : Half) :
    FailsWithin (accessFailures cfg dev) cfg (smiWrite dev reg v) :=
  (busPiece_smiWrite dev reg v).failsWithin cfg dev smiWrite_error

theorem failsWithin_writeField (reg : RegNum) (off : BitVec 4) (len : BitVec 5) (val : Half) :
    FailsWithin (accessFailures cfg dev) cfg (writeField dev reg off len val) :=
  (failsWithin_smiRead cfg dev reg).andThen fun _ => failsWithin_smiWrite cfg dev reg _

theorem failsWithin_writeAll (ws : List (RegNum × Half)) :
    FailsWithin (accessFailures cfg dev) cfg (writeAll dev ws) := by
  induction ws with
  | nil => exact failsWithin_give fun _ => ()
  | cons w ws ih => exact (failsWithin_smiWrite cfg dev w.1 w.2).andThen fun _ => ih

/-- Storing a result cannot fail (44_atu_engine.md R202). -/
theorem failsWithin_readAll (rs : List (RegNum × ResultUse)) :
    FailsWithin (accessFailures cfg dev) cfg (readAll dev rs) := by
  induction rs with
  | nil => exact failsWithin_give fun _ => ()
  | cons r rs ih =>
    refine (failsWithin_smiRead cfg dev r.1).andThen fun v => FailsWithin.andThen
      (fun s _ => ⟨useResult_cfg r.2 v s, (stores_useResult r.2 v s).response, nofun⟩) fun ended => ?_
    cases ended with
    | true => exact failsWithin_give fun _ => ()
    | false => exact ih

theorem failsWithin_powerBits (v : Half) (bits : List PowerBit) :
    FailsWithin (accessFailures cfg dev) cfg (powerBits dev v bits) := by
  induction bits with
  | nil => exact failsWithin_give fun _ => ()
  | cons b bits ih => exact FailsWithin.andThen (fun s hs => failsWithin_writeField cfg dev _ _ _ _ s hs) fun _ => ih

end Pieces

theorem failsWithin_tableResult (cfg : Config) (p : TablePlan) :
    FailsWithin (accessFailures cfg p.dev) cfg (tableResult p) :=
  (failsWithin_readAll cfg p.dev p.results).andThen fun _ => failsWithin_give (answerValue p.answer)

/-! ## The answers of a run -/

/-- From `s` to `t` a command has run, and if it has answered, then with a status of `sts`, and with value 0 unless the
status is Ok (30_encoding.md R86): what `Answers` says, and the value. -/
def AnswersWithin (sts : List Status) (s t : State) : Prop :=
  t.response = s.response ∨ ∃ st ∈ sts, ∃ v, t.response = some (responseWord st v) ∧ (st ≠ .ok → v = 0)

section Answers
variable {sts : List Status} {s t : State}

/-- The response shown by a command that started without one is its own answer. -/
theorem AnswersWithin.of_response (h : AnswersWithin sts s t) (hs : s.response = none) {rw : Word}
    (hrw : t.response = some rw) : ∃ st ∈ sts, ∃ v, rw = responseWord st v ∧ (st ≠ .ok → v = 0) := by
  rcases h with h | ⟨st, hst, v, h, hv⟩ <;> rw [h] at hrw
  · exact nomatch hs.symm.trans hrw
  · exact ⟨st, hst, v, (Option.some.inj hrw).symm, hv⟩

theorem AnswersWithin.mono {sts' : List Status} (h : AnswersWithin sts s t) (hs : sts ⊆ sts') :
    AnswersWithin sts' s t := h.imp_right fun ⟨st, hst, hv⟩ => ⟨st, hs hst, hv⟩

/-- What delivers no response is part of the run it comes before. -/
theorem AnswersWithin.after {m : State} (h : m.response = s.response) (k : AnswersWithin sts m t) :
    AnswersWithin sts s t := by
  unfold AnswersWithin at k ⊢
  rwa [h] at k

theorem answersWithin_ok (h : .ok ∈ sts) (v : Half) (s : State) : AnswersWithin sts s (respond .ok v s) :=
  .inr ⟨.ok, h, v, rfl, fun hne => absurd rfl hne⟩

theorem answersWithin_respond_zero {st : Status} (h : st ∈ sts) (s : State) : AnswersWithin sts s (respond st 0 s) :=
  .inr ⟨st, h, 0, rfl, fun _ => rfl⟩

theorem answersWithin_raise {st : Status} (h : st ∈ sts) (s : State) : AnswersWithin sts s (raise st s) :=
  answersWithin_respond_zero h s

/-- A command's last piece: a failure of it is answered with value 0 (60_exceptions.md R272). -/
theorem FailsWithin.answersWithin {m : Bus Half} (h : FailsWithin sts s.cfg m) :
    AnswersWithin (.ok :: sts) s (finish m s) := by
  have hend := h s rfl
  rcases finish_cases m s with ⟨v, t, hm, e⟩ | ⟨st, t, hm, e⟩ <;> rw [hm] at hend <;> rw [e]
  · exact .after hend.response (answersWithin_ok List.mem_cons_self v t)
  · exact .after hend.response (answersWithin_raise (List.mem_cons_of_mem _ (hend.failure st rfl)) t)

theorem EndsWithin.outcomeStatus_mem {α : Type} {p : Except Status α × State} (h : EndsWithin sts s p) :
    outcomeStatus p.1 ∈ .ok :: sts := by
  match hp : p.1 with
  | .ok _ => exact List.mem_cons_self
  | .error st => exact List.mem_cons_of_mem _ (h.failure st hp)

end Answers

/-- What a command answers whose accesses are all made at `dev`. -/
def accessAnswers (cfg : Config) (dev : Nat) : List Status := .ok :: accessFailures cfg dev

theorem accessAnswers_subset (cfg : Config) (dev : Nat) : accessAnswers cfg dev ⊆ transportAnswers := by
  unfold accessAnswers accessFailures
  split <;> decide

theorem ok_mem_accessAnswers (cfg : Config) (dev : Nat) : .ok ∈ accessAnswers cfg dev := List.mem_cons_self

theorem mem_accessAnswers_of_failure {cfg : Config} {dev : Nat} {st : Status} (h : st ∈ accessFailures cfg dev) :
    st ∈ accessAnswers cfg dev := List.mem_cons_of_mem _ h

/-! ## The table engine -/

/-- A poll of a Busy-Wait answers a transport failure or the bound's Timeout, or goes on (44_atu_engine.md R186). -/
theorem answersWithin_tableWait {p : TablePlan} {f : State → State} {s : State}
    (hf : ∀ t, t.cfg = s.cfg → AnswersWithin (accessAnswers s.cfg p.dev) t (f t)) (c : TableCmd) (ph : WaitPhase)
    (k : Nat) : AnswersWithin (accessAnswers s.cfg p.dev) s (tableWait c ph k p f s) := by
  have hread := failsWithin_smiRead s.cfg p.dev p.opReg s rfl
  rcases tableWait_cases c ph k p f s with ⟨st, t, h, e⟩ | ⟨v, t, h, -, e⟩ | ⟨v, t, h, -, -, e⟩ | ⟨v, t, h, -, -, e⟩ <;>
    rw [h] at hread <;> rw [e] <;> refine .after hread.response ?_
  · exact answersWithin_raise (mem_accessAnswers_of_failure (hread.failure st rfl)) t
  · exact hf t hread.cfg
  · exact answersWithin_raise (mem_accessAnswers_of_failure (timeout_mem_accessFailures _ _)) t
  · exact .inl rfl

theorem answersWithin_runPostWait (c : TableCmd) (k : Nat) (p : TablePlan) (s : State) :
    AnswersWithin (accessAnswers s.cfg p.dev) s (runPostWait c k p s) :=
  answersWithin_tableWait (fun t ht => ht ▸ (failsWithin_tableResult t.cfg p).answersWithin) c .post k

theorem answersWithin_runCommit (c : TableCmd) (p : TablePlan) (s : State) :
    AnswersWithin (accessAnswers s.cfg p.dev) s (runCommit c p s) := by
  have hwrite := failsWithin_writeAll s.cfg p.dev (p.commit s) s rfl
  rcases runCommit_cases c p s with ⟨st, t, h, e⟩ | ⟨t, h, -, -, e⟩ | ⟨t, h, -, e⟩ <;> rw [h] at hwrite <;> rw [e] <;>
    refine .after hwrite.response ?_
  · exact answersWithin_raise (mem_accessAnswers_of_failure (hwrite.failure st rfl)) t
  · exact answersWithin_ok (ok_mem_accessAnswers _ _) 0 t
  · exact (show t.cfg = s.cfg from hwrite.cfg) ▸ answersWithin_runPostWait c 0 p t

/-- All accesses of a table command are made at its table's device, where its address check fails or passes for all of
them alike. -/
theorem accessAnswers_table_subset {cfg : Config} (h : cfg.bus.WF) (c : TableCmd) :
    accessAnswers cfg (tablePlan cfg c).dev ⊆ possibleStatuses cfg (latchedCommand c) := by
  rw [accessAnswers, accessFailures_eq h]
  cases c with
  | pvtWrite | pvtRead => exact List.Subset.refl _
  | atuFlushAll | atuFlushUnlocked | atuLoadPurge | atuGetNext | atuFlushAllDb | atuFlushUnlockedDb | atuSvcViol =>
    exact List.cons_subset_cons Status.ok (List.subset_cons_self Status.fail _)

theorem fail_mem_of_needsContext {c : TableCmd} (h : needsContext c = true) (cfg : Config) :
    .fail ∈ possibleStatuses cfg (latchedCommand c) := by
  cases c with
  | pvtWrite | pvtRead => cases h
  | atuFlushAll | atuFlushUnlocked | atuLoadPurge | atuGetNext | atuFlushAllDb | atuFlushUnlockedDb | atuSvcViol =>
    exact List.mem_append_left _ (by decide)

/-- A step of a wait, and all it leads to. -/
theorem answersWithin_resume {s : State} (hwf : s.cfg.bus.WF) (c : TableCmd) (ph : WaitPhase) (k : Nat) :
    AnswersWithin (possibleStatuses s.cfg (latchedCommand c)) s (resume c ph k s) := by
  refine AnswersWithin.mono ?_ (accessAnswers_table_subset hwf c)
  cases ph with
  | pre => exact answersWithin_tableWait (fun t ht => ht ▸ answersWithin_runCommit c _ t) c .pre k
  | post => exact answersWithin_runPostWait c k _ s

/-- A table command is turned away by its context check, or begins its first wait (44_atu_engine.md R203). -/
theorem answersWithin_exec_latchedCommand {c : TableCmd} {s t : State} (hwf : s.cfg.bus.WF)
    (h : exec (latchedCommand c) s = .next t) : AnswersWithin (possibleStatuses s.cfg (latchedCommand c)) s t := by
  by_cases hctx : needsContext c = true → s.ctx.valid = true
  · rw [exec_latchedCommand_of_context hctx] at h
    cases h
    exact answersWithin_resume hwf c .pre 0
  · obtain ⟨hneeds, hinvalid⟩ := Classical.not_imp.1 hctx
    rw [exec_latchedCommand_of_invalid hneeds (Bool.eq_false_of_not_eq_true hinvalid)] at h
    cases h
    exact answersWithin_raise (fail_mem_of_needsContext hneeds s.cfg) s

/-! ## The port-configuration commands -/

/-- What the checks of a port-configuration command refuse it with (46_port_config.md R235, R236, R250). -/
def checkRefusals (legal : Bool) : List Status := .fail :: .notSupported :: if legal then [] else [.badParameter]

theorem answersWithin_portChecks {run : State → State} {s : State} (h : AnswersWithin transportAnswers s (run s))
    (op : PortOp) (legal : Bool) :
    AnswersWithin (checkRefusals legal ++ transportAnswers) s (portChecks op legal run s) := by
  rcases portChecks_cases op legal run s with ⟨-, e⟩ | ⟨-, -, e⟩ | ⟨-, -, rfl, e⟩ | ⟨-, -, -, e⟩ <;> rw [e]
  · exact answersWithin_raise (List.mem_append_left _ List.mem_cons_self) s
  · exact answersWithin_raise (List.mem_append_left _ (List.mem_cons_of_mem _ List.mem_cons_self)) s
  · exact answersWithin_raise (by decide) s
  · exact h.mono (List.subset_append_right _ _)

theorem checkRefusals_subset (legal : Bool) : checkRefusals legal ++ transportAnswers ⊆
    [.ok, .fail, .invalidAddress, .timeout, .badParameter, .notSupported] := by
  cases legal <;> decide

theorem answersWithin_writeDescribed (d : FieldDesc) (port : BitVec 8) (v answer : Half) (s : State) :
    AnswersWithin transportAnswers s (writeDescribed d port v answer s) :=
  AnswersWithin.mono (FailsWithin.answersWithin
    ((failsWithin_writeField s.cfg _ _ _ _ _).andThen fun _ => failsWithin_give fun _ => answer))
    (accessAnswers_subset s.cfg _)

/-- The restore answers the first failure, or its own status, with value 0 either way (46_port_config.md R249). -/
theorem answersWithin_restorePage {dev : Nat} {first : Status} {s : State}
    (hfirst : first ∈ accessAnswers s.cfg dev) :
    AnswersWithin (accessAnswers s.cfg dev) s (restorePage dev first s) := by
  have hwrite := failsWithin_smiWrite s.cfg dev s.cfg.phy.pageReg s.cfg.phy.pageDefault s rfl
  rw [restorePage_eq]
  refine .after hwrite.response (answersWithin_respond_zero ?_ _)
  split
  · exact hwrite.outcomeStatus_mem
  · exact hfirst

theorem answersWithin_powerSequence (dev : Nat) (v : Half) (s : State) :
    AnswersWithin (accessAnswers s.cfg dev) s (powerSequence dev v s) := by
  have hpage := failsWithin_smiWrite s.cfg dev s.cfg.phy.pageReg s.cfg.phy.powerPage s rfl
  rcases powerSequence_cases dev v s with ⟨st, t, h, e⟩ | ⟨t, h, e⟩ <;> rw [h] at hpage <;> rw [e] <;>
    refine .after hpage.response ?_
  · exact answersWithin_raise (mem_accessAnswers_of_failure (hpage.failure st rfl)) t
  · have hbits := failsWithin_powerBits s.cfg dev v t.cfg.phy.powerBits t hpage.cfg
    have hcfg := hbits.cfg.trans hpage.cfg
    exact .after hbits.response (hcfg ▸ answersWithin_restorePage (hcfg ▸ hbits.outcomeStatus_mem))

/-! ## Every command -/

/-- CTX_INIT answers Ok or NotSupported (40_operand_and_context.md R112). -/
theorem answersWithin_exec_ctxInit {s t : State} (h : exec .ctxInit s = .next t) :
    AnswersWithin [.ok, .notSupported] s t := by
  by_cases hsup : readE 0 s ∈ s.cfg.supportedIds
  · rw [exec_ctxInit_of_supported hsup] at h
    cases h
    exact .inr ⟨.ok, by decide, 0, rfl, fun _ => rfl⟩
  · rw [exec_ctxInit_of_unsupported hsup] at h
    cases h
    exact .inr ⟨.notSupported, by decide, 0, rfl, fun _ => rfl⟩

/-- CTX_RD of a value field fails on an invalid context; of the valid bit, never (40_operand_and_context.md R113). -/
theorem answersWithin_exec_ctxRd {n : BitVec 4} {s t : State} (hwf : (Instr.ctxRd n).wf = true)
    (h : exec (.ctxRd n) s = .next t) : AnswersWithin (possibleStatuses s.cfg (.ctxRd n)) s t := by
  by_cases hn : n.toNat ≤ 5
  · rw [possibleStatuses, if_pos hn]
    rw [exec_ctxRd_field hn] at h
    cases h
    split
    · exact answersWithin_ok (by decide) _ s
    · exact answersWithin_raise (by decide) s
  · obtain rfl := eq_six_of_no_context (decide_eq_false hn) hwf
    cases h
    exact answersWithin_ok List.mem_cons_self _ s

/-- A command that is one piece of accesses at one device (41_bus_transport.md R130). -/
theorem answersWithin_busCommand {m : Bus Half} {dev : Nat} {s : State}
    (h : FailsWithin (accessFailures s.cfg dev) s.cfg m) : AnswersWithin transportAnswers s (finish m s) :=
  h.answersWithin.mono (accessAnswers_subset s.cfg dev)

/-- A command run at once answers, if it does, one of its statuses in R273's table. -/
theorem answersWithin_exec {i : Instr} {s t : State} (hbus : s.cfg.bus.WF) (hwf : i.wf = true)
    (h : exec i s = .next t) : AnswersWithin (possibleStatuses s.cfg i) s t := by
  cases i with
  | lde | rde => cases h; exact .inr ⟨.ok, List.mem_cons_self, _, rfl, fun hne => absurd rfl hne⟩
  | ctxInit => exact answersWithin_exec_ctxInit h
  | ctxRd n => exact answersWithin_exec_ctxRd hwf h
  | smiRd | regRd => cases h; exact answersWithin_busCommand (failsWithin_smiRead s.cfg _ _)
  | smiWr | regWr =>
    cases h
    exact answersWithin_busCommand ((failsWithin_smiWrite s.cfg _ _ _).andThen fun _ => failsWithin_give fun _ => 0)
  | smiFldWr | regFldWr =>
    cases h
    exact answersWithin_busCommand
      ((failsWithin_writeField s.cfg _ _ _ _ _).andThen fun _ => failsWithin_give fun _ => 0)
  | atuFlushAll => exact answersWithin_exec_latchedCommand (c := .atuFlushAll) hbus h
  | atuFlushUnlocked => exact answersWithin_exec_latchedCommand (c := .atuFlushUnlocked) hbus h
  | atuLoadPurge => exact answersWithin_exec_latchedCommand (c := .atuLoadPurge) hbus h
  | atuGetNext => exact answersWithin_exec_latchedCommand (c := .atuGetNext) hbus h
  | atuFlushAllDb => exact answersWithin_exec_latchedCommand (c := .atuFlushAllDb) hbus h
  | atuFlushUnlockedDb => exact answersWithin_exec_latchedCommand (c := .atuFlushUnlockedDb) hbus h
  | atuSvcViol => exact answersWithin_exec_latchedCommand (c := .atuSvcViol) hbus h
  | pvtWrite => exact answersWithin_exec_latchedCommand (c := .pvtWrite) hbus h
  | pvtRead => exact answersWithin_exec_latchedCommand (c := .pvtRead) hbus h
  | portState | portFrameMode | portVlanMembers | portHeaderMode | pcsForceSpeed | pcsForceDuplex | pcsForceFc
  | pcsForceLink =>
    cases h
    exact (answersWithin_portChecks (answersWithin_writeDescribed _ _ _ _ s) _ _).mono (checkRefusals_subset _)
  | portJumbo =>
    cases h
    have hjumbo : checkRefusals true ++ transportAnswers ⊆ [.ok, .fail, .invalidAddress, .timeout, .notSupported] := by
      decide
    exact (answersWithin_portChecks (answersWithin_writeDescribed _ _ _ _ s) _ true).mono hjumbo
  | phyPower =>
    cases h
    exact (answersWithin_portChecks ((answersWithin_powerSequence _ _ s).mono (accessAnswers_subset _ _)) _ _).mono
      (checkRefusals_subset _)

/-- Settles O58: a command's statuses are those of its checks and of its accesses at the device it addresses, and every
failure is answered with value 0. -/
theorem answerStatuses : Obligations.AnswerStatuses :=
  ⟨fun _ _ _ _ hbus hwf hs h hrw => (answersWithin_exec hbus hwf h).of_response hs hrw,
    fun _ c ph k _ hbus hs hrw => (answersWithin_resume hbus c ph k).of_response hs hrw⟩

end Sys2Proof.Machine

/-! PROOFS. A reset inside a command keeps exactly the accesses made before it (70_reset_and_hazards.md R295, R296): what
a step does on the bus is what its recorded accesses do when they are made again. -/

namespace Sys2Proof.Machine

/-! ## Accesses made again -/

theorem busOnly_foldl_replayAccess (s : State) (evs : List BusEvent) : BusOnly s (evs.foldl replayAccess s) := by
  induction evs generalizing s with
  | nil => exact BusOnly.refl s
  | cons ev evs ih => exact (busOnly_replayAccess s ev).trans (ih _)

theorem replayAccess_history_length (s : State) (ev : BusEvent) :
    (replayAccess s ev).history.length = s.history.length + 1 := by
  cases ev <;> simp [replayAccess, memReadCtrl_history, memReadData_history]

theorem foldl_replayAccess_history_length (s : State) (evs : List BusEvent) :
    (evs.foldl replayAccess s).history.length = s.history.length + evs.length := by
  induction evs generalizing s with
  | nil => rfl
  | cons ev evs ih => rw [List.foldl_cons, ih, replayAccess_history_length, List.length_cons]; omega

/-- From `s` to `t` the bus side has made the accesses `evs`: they enter the history, and made again from `s` they are
answered as they were. -/
structure Replays (evs : List BusEvent) (s t : State) : Prop where
  history : t.history = s.history ++ evs
  sameBus : SameBus (evs.foldl replayAccess s) t

theorem Replays.of_sameBus {s t : State} (h : SameBus s t) : Replays [] s t :=
  ⟨h.history.trans (List.append_nil _).symm, h⟩

theorem Replays.trans {evs evs' : List BusEvent} {s t u : State} (h : Replays evs s t) (k : Replays evs' t u) :
    Replays (evs ++ evs') s u where
  history := by rw [k.history, h.history, List.append_assoc]
  sameBus := by
    rw [List.foldl_append]
    exact (sameBus_foldl_replayAccess h.sameBus evs').trans k.sameBus

/-- Its first `n` accesses, made again, are recorded as they were: the accesses after them only add to the history. -/
theorem Replays.take_history {evs : List BusEvent} {s t : State} (h : Replays evs s t) (n : Nat) :
    ((evs.take n).foldl replayAccess s).history = s.history ++ evs.take n := by
  have hall : (evs.foldl replayAccess s).history = s.history ++ evs := h.sameBus.history.symm.trans h.history
  have hmade : ((evs.take n).foldl replayAccess s).history <+: s.history ++ evs := by
    have hmore := (busOnly_foldl_replayAccess ((evs.take n).foldl replayAccess s) (evs.drop n)).history
    rwa [← List.foldl_append, List.take_append_drop, hall] at hmore
  have htaken : s.history ++ evs.take n <+: s.history ++ evs :=
    (List.prefix_append_right_inj _).2 (List.take_prefix n evs)
  have hlen : ((evs.take n).foldl replayAccess s).history.length = (s.history ++ evs.take n).length := by
    rw [foldl_replayAccess_history_length, List.length_append]
  exact (List.prefix_of_prefix_length_le hmade htaken hlen.le).eq_of_length hlen

/-! ## Every step makes accesses that can be made again -/

theorem OneAccess.exists_replays {s t : State} (h : OneAccess s t) : ∃ evs, Replays evs s t := by
  rcases h with h | ⟨ev, hev, h⟩
  · exact ⟨[], .of_sameBus h⟩
  · exact ⟨[ev], hev, h⟩

theorem exists_replays_of_runSteps {s u : State} (h : Relation.ReflTransGen RunStep s u) : ∃ evs, Replays evs s u := by
  induction h with
  | refl => exact ⟨[], .of_sameBus (.refl s)⟩
  | tail _ hstep ih =>
    obtain ⟨evs, hevs⟩ := ih
    obtain ⟨w, -, hgo⟩ := hstep
    obtain ⟨evs', hevs'⟩ := hgo.access.exists_replays
    exact ⟨evs ++ evs', hevs.trans hevs'⟩

/-- A first step and the steps that follow it. -/
theorem exists_replays_of_first {s m u : State} (hfirst : OneAccess s m) (hrest : Relation.ReflTransGen RunStep m u) :
    ∃ evs, Replays evs s u := by
  obtain ⟨evs, hevs⟩ := hfirst.exists_replays
  obtain ⟨evs', hevs'⟩ := exists_replays_of_runSteps hrest
  exact ⟨evs ++ evs', hevs.trans hevs'⟩

theorem exists_replays_exec {i : Instr} {s t : State} (h : exec i s = .next t) : ∃ evs, Replays evs s t := by
  obtain ⟨u, hu, m, hgo, hrest⟩ := leads_exec i s
  cases hu.symm.trans h
  exact exists_replays_of_first hgo.access hrest

theorem exists_replays_deliver {w : Work} {s t : State} (h : deliver w s = .next t) : ∃ evs, Replays evs s t := by
  unfold deliver at h
  split at h
  · exact exists_replays_exec h
  all_goals cases h; exact ⟨[], .of_sameBus (sameBus_respond _ _ s)⟩

/-- A command between two accesses makes its next one, or delivers its response (00_scope.md R9). -/
theorem exists_replays_continueWork {w : Work} {s t : State} (h : continueWork w s = .next t) :
    ∃ evs, Replays evs s t := by
  unfold continueWork at h
  split at h
  · cases h
    exact (oneAccess_makeAccess _ _ s).exists_replays
  · exact exists_replays_deliver h

theorem advance_of_running {s : State} {w : Work} (h : s.seq = .running w) : advance s = continueWork w s := by
  simp [advance, h]

/-- What a block with something to do does on the bus can be made again. -/
theorem exists_replays_advance {s u : State} (hq : isQuiet s = false) (h : advance s = .next u) :
    ∃ evs, Replays evs s u := by
  by_cases hrun : ∃ w, s.seq = .running w
  · obtain ⟨w, hw⟩ := hrun
    exact exists_replays_continueWork ((advance_of_running hw).symm.trans h)
  · obtain ⟨m, v, hfirst⟩ := exists_firstStep (not_exists.1 hrun) hq
    cases hfirst.whole.symm.trans h
    exact exists_replays_of_first hfirst.access hfirst.rest

/-! ## Where the reset lands -/

/-- Fewer accesses than the count leave the reset to come. -/
theorem resetWithin_of_lt {s u : State} {n : Nat} (hgrow : s.history.length ≤ u.history.length)
    (h : u.history.length < s.history.length + n) :
    resetWithin n s u = { u with resetIn := some (s.history.length + n - u.history.length) } := by
  have hleft : n - (u.history.length - s.history.length) = s.history.length + n - u.history.length := by omega
  rw [resetWithin, if_pos (by omega), hleft]

/-- As many accesses as the count, or more, bring the reset. -/
theorem resetWithin_of_le {s u : State} {n : Nat} (h : s.history.length + n ≤ u.history.length) :
    resetWithin n s u = abandon n s u := by
  rw [resetWithin, if_neg (by omega)]

/-- Accesses already made stay made, and no other is (70_reset_and_hazards.md R296). -/
theorem abandon_history {evs : List BusEvent} {s u : State} (h : Replays evs s u) (n : Nat) :
    (abandon n s u).history = s.history ++ (u.history.drop s.history.length).take n := by
  have hevs : u.history.drop s.history.length = evs := by simp [h.history]
  rw [(resetFrom_abandon n s u).history, hevs, h.take_history n]

theorem abandon_cfg (n : Nat) (s u : State) : (abandon n s u).cfg = s.cfg :=
  (resetFrom_abandon n s u).cfg.trans (busOnly_foldl_replayAccess s _).cfg

/-- Settles O10: the accesses of the uncut step can be made again from where it starts, so the reset that lands after
the first of them leaves just those. -/
theorem resetMidCommandKeepsAccessesMade : Obligations.ResetMidCommandKeepsAccessesMade := by
  intro s u n hr hbusy hu
  have hq : isQuiet s = false := isQuiet_of_busy (not_and_or.1 hbusy)
  have hstep : step s = .next (resetWithin (n + 1) s u) := underReset_of_due hr hq hu
  obtain ⟨evs, hevs⟩ := exists_replays_advance hq hu
  refine ⟨fun hfewer => ?_, fun hreached => ?_⟩
  · have hgrow : s.history.length ≤ u.history.length := by simp [hevs.history]
    rw [hstep, resetWithin_of_lt hgrow hfewer]
  · rw [resetWithin_of_le hreached] at hstep
    have hreset := resetFrom_abandon (n + 1) s u
    exact ⟨_, hstep, hreset.seq, hreset.invalid, hreset.response, rfl, abandon_history hevs (n + 1), rfl,
      abandon_cfg (n + 1) s u⟩

end Sys2Proof.Machine

/-! PROOFS. The commands that are no table commands make a bounded number of accesses, whatever the environment answers
(70_reset_and_hazards.md R312). -/

namespace Sys2Proof.Machine

/-- From `s` to `t` at most `n` accesses were made, under one configuration. -/
structure AccessesWithin (n : Nat) (s t : State) : Prop where
  cfg : t.cfg = s.cfg
  history : t.history.length ≤ s.history.length + n

theorem AccessesWithin.refl (n : Nat) (s : State) : AccessesWithin n s s := ⟨rfl, Nat.le_add_right _ _⟩

theorem AccessesWithin.mono {n n' : Nat} {s t : State} (h : AccessesWithin n s t) (hn : n ≤ n') :
    AccessesWithin n' s t := ⟨h.cfg, h.history.trans (Nat.add_le_add_left hn _)⟩

theorem AccessesWithin.trans {n n' : Nat} {s t u : State} (h : AccessesWithin n s t) (k : AccessesWithin n' t u) :
    AccessesWithin (n + n') s u :=
  ⟨k.cfg.trans h.cfg, by have := h.history; have := k.history; omega⟩

/-- A response is no access. -/
theorem AccessesWithin.respond {n : Nat} {s t : State} (h : AccessesWithin n s t) (st : Status) (v : Half) :
    AccessesWithin n s (respond st v t) := ⟨h.cfg, h.history⟩

/-! ## The pieces of a command -/

/-- A piece of a command that, under the configuration `cfg`, makes at most `n` accesses. -/
def PieceWithin {α : Type} (n : Nat) (cfg : Config) (m : Bus α) : Prop :=
  ∀ s, s.cfg = cfg → AccessesWithin n s (m s).2

section Pieces
variable {cfg : Config} {n n' : Nat}

theorem PieceWithin.mono {α : Type} {m : Bus α} (h : PieceWithin n cfg m) (hn : n ≤ n') : PieceWithin n' cfg m :=
  fun s hs => (h s hs).mono hn

/-- The accesses of two pieces add up; a failure of the first leaves out the second (60_exceptions.md R272). -/
theorem PieceWithin.andThen {α β : Type} {m : Bus α} {k : α → Bus β} (hm : PieceWithin n cfg m)
    (hk : ∀ a, PieceWithin n' cfg (k a)) : PieceWithin (n + n') cfg (andThen m k) := by
  intro s hs
  have hfirst := hm s hs
  rcases andThen_cases m k s with ⟨st, t, h, e⟩ | ⟨a, t, h, e⟩ <;> rw [h] at hfirst <;> rw [e]
  · exact hfirst.mono (Nat.le_add_right n n')
  · exact hfirst.trans (hk a t (hfirst.cfg.trans hs))

theorem pieceWithin_give {α : Type} (cfg : Config) (a : α) : PieceWithin 0 cfg (give a) :=
  fun s _ => .refl 0 s

theorem pieceWithin_checkAddress (cfg : Config) (dev : Nat) : PieceWithin 0 cfg (checkAddress dev) := by
  intro s _
  unfold checkAddress
  split <;> exact .refl 0 s

theorem PollEnds.history_length_le {done : Word → Bool} {s : State} {r : Except Status Unit × State}
    (h : PollEnds done n s r) : r.2.history.length ≤ s.history.length + n := by
  obtain ⟨reads, hhistory, ⟨-, hlen, -⟩ | ⟨-, hlen, -⟩⟩ := h <;> simp [hhistory, hlen]

theorem pieceWithin_pollBusy (cfg : Config) : PieceWithin cfg.bus.busyPollMax cfg pollBusy := by
  rintro s rfl
  exact ⟨(busPiece_pollBusy s).cfg, (pollEnds_pollBusyFrom _ s).history_length_le⟩

theorem pieceWithin_pollValid (cfg : Config) : PieceWithin cfg.bus.rvalidPollMax cfg pollValid := by
  rintro s rfl
  exact ⟨(busPiece_pollValid s).cfg, (pollEnds_pollValidFrom _ s).history_length_le⟩

theorem pieceWithin_issue (cfg : Config) (f : State → Word) : PieceWithin 1 cfg fun s => issue (f s) s :=
  fun s _ => ⟨(busPiece_issue (f s) s).cfg, by simp [issue]⟩

theorem pieceWithin_fetchData (cfg : Config) : PieceWithin 1 cfg fetchData :=
  fun s _ => ⟨(busPiece_fetchData s).cfg, by simp [fetchData, memReadData_history]⟩

/-- The busy poll, the control word, the read-valid poll and the datum (41_bus_transport.md R133). -/
theorem pieceWithin_smiRead (cfg : Config) (dev : Nat) (reg : RegNum) :
    PieceWithin (readBound cfg) cfg (smiRead dev reg) :=
  PieceWithin.mono
    ((pieceWithin_checkAddress cfg dev).andThen fun _ => (pieceWithin_pollBusy cfg).andThen fun _ =>
      (pieceWithin_issue cfg _).andThen fun _ => (pieceWithin_pollValid cfg).andThen fun _ => pieceWithin_fetchData cfg)
    (by unfold readBound; omega)

/-- The busy poll and the control word (41_bus_transport.md R134). -/
theorem pieceWithin_smiWrite (cfg : Config) (dev : Nat) (reg : RegNum) (v : Half) :
    PieceWithin (writeBound cfg) cfg (smiWrite dev reg v) :=
  PieceWithin.mono
    ((pieceWithin_checkAddress cfg dev).andThen fun _ => (pieceWithin_pollBusy cfg).andThen fun _ =>
      pieceWithin_issue cfg _)
    (by unfold writeBound; omega)

/-- One `SmiRead` and one `SmiWrite` (42_field_codec.md R151). -/
theorem pieceWithin_writeField (cfg : Config) (dev : Nat) (reg : RegNum) (off : BitVec 4) (len : BitVec 5)
    (val : Half) : PieceWithin (readBound cfg + writeBound cfg) cfg (writeField dev reg off len val) :=
  (pieceWithin_smiRead cfg dev reg).andThen fun _ => pieceWithin_smiWrite cfg dev reg _

/-- One field write per row of POWER_BITS (46_port_config.md R249). -/
theorem pieceWithin_powerBits (cfg : Config) (dev : Nat) (v : Half) (bits : List PowerBit) :
    PieceWithin (bits.length * (readBound cfg + writeBound cfg)) cfg (powerBits dev v bits) := by
  induction bits with
  | nil => exact (pieceWithin_give cfg ()).mono (Nat.zero_le _)
  | cons b bits ih =>
    refine PieceWithin.mono
      (PieceWithin.andThen (fun s hs => pieceWithin_writeField cfg dev _ _ _ _ s hs) fun _ => ih) ?_
    rw [List.length_cons, Nat.succ_mul, Nat.add_comm]

end Pieces

/-! ## The commands -/

section Commands
variable {n : Nat} {s : State}

/-- The answer of a command is no access. -/
theorem PieceWithin.finish {m : Bus Half} (h : PieceWithin n s.cfg m) : AccessesWithin n s (finish m s) := by
  have hend := h s rfl
  rcases finish_cases m s with ⟨v, t, hm, e⟩ | ⟨st, t, hm, e⟩ <;> rw [hm] at hend <;> rw [e]
  · exact hend.respond .ok v
  · exact hend.respond st 0

/-- A command that only writes answers 0. -/
theorem PieceWithin.finish_give {m : Bus Unit} (h : PieceWithin n s.cfg m) (answer : Half) :
    AccessesWithin n s (Machine.finish (Machine.andThen m fun _ => give answer) s) :=
  PieceWithin.finish (h.andThen fun _ => pieceWithin_give s.cfg answer)

/-- A check that fails makes no access (46_port_config.md R235, R250). -/
theorem AccessesWithin.portChecks {run : State → State} (h : AccessesWithin n s (run s)) (op : PortOp) (legal : Bool) :
    AccessesWithin n s (portChecks op legal run s) := by
  rcases portChecks_cases op legal run s with ⟨-, e⟩ | ⟨-, -, e⟩ | ⟨-, -, -, e⟩ | ⟨-, -, -, e⟩ <;> rw [e]
  · exact (AccessesWithin.refl n s).respond .fail 0
  · exact (AccessesWithin.refl n s).respond .notSupported 0
  · exact (AccessesWithin.refl n s).respond .badParameter 0
  · exact h

theorem accessesWithin_writeDescribed (d : FieldDesc) (port : BitVec 8) (v answer : Half) (s : State) :
    AccessesWithin (readBound s.cfg + writeBound s.cfg) s (writeDescribed d port v answer s) :=
  (pieceWithin_writeField s.cfg _ _ _ _ _).finish_give answer

/-- The page's write, the rows of POWER_BITS, and the write that restores the page (46_port_config.md R249). -/
theorem accessesWithin_powerSequence (dev : Nat) (v : Half) (s : State) :
    AccessesWithin (2 * writeBound s.cfg + s.cfg.phy.powerBits.length * (readBound s.cfg + writeBound s.cfg)) s
      (powerSequence dev v s) := by
  have hpage := pieceWithin_smiWrite s.cfg dev s.cfg.phy.pageReg s.cfg.phy.powerPage s rfl
  rcases powerSequence_cases dev v s with ⟨st, t, h, e⟩ | ⟨t, h, e⟩ <;> rw [h] at hpage <;> rw [e]
  · exact (hpage.mono (by omega)).respond st 0
  · have hcfg : t.cfg = s.cfg := hpage.cfg
    have hbits := pieceWithin_powerBits s.cfg dev v t.cfg.phy.powerBits t hcfg
    rw [restorePage_eq]
    have hrestore := pieceWithin_smiWrite s.cfg dev (powerBits dev v t.cfg.phy.powerBits t).2.cfg.phy.pageReg
      (powerBits dev v t.cfg.phy.powerBits t).2.cfg.phy.pageDefault _ (hbits.cfg.trans hcfg)
    refine (((hpage.trans hbits).trans hrestore).mono ?_).respond _ 0
    rw [hcfg]
    omega

/-- The commands that answer without the bus (40_operand_and_context.md R110 to R113). -/
theorem history_length_le_of_accessFree {i : Instr} {t : State} (hi : accessFree i = true) (h : exec i s = .next t) :
    t.history.length ≤ s.history.length + 0 := by
  rw [(delivered_exec hi h).history, Nat.add_zero]

end Commands

/-- Settles O59: the counts of R312, command by command, from those of `SmiRead` and `SmiWrite`. -/
theorem accessesBounded : Obligations.AccessesBounded := by
  intro s t i b hbound h
  cases i with
  | lde | rde | ctxInit | ctxRd =>
    cases hbound
    exact history_length_le_of_accessFree rfl h
  | smiRd | regRd =>
    cases hbound; cases h
    exact (pieceWithin_smiRead s.cfg _ _).finish.history
  | smiWr | regWr =>
    cases hbound; cases h
    exact ((pieceWithin_smiWrite s.cfg _ _ _).finish_give 0).history
  | smiFldWr | regFldWr =>
    cases hbound; cases h
    exact ((pieceWithin_writeField s.cfg _ _ _ _ _).finish_give 0).history
  | atuFlushAll | atuFlushUnlocked | atuLoadPurge | atuGetNext | atuFlushAllDb | atuFlushUnlockedDb | atuSvcViol
  | pvtWrite | pvtRead => cases hbound
  | portState | portFrameMode | portVlanMembers | portHeaderMode | pcsForceSpeed | pcsForceDuplex | pcsForceFc
  | pcsForceLink | portJumbo =>
    cases hbound; cases h
    exact ((accessesWithin_writeDescribed _ _ _ _ s).portChecks _ _).history
  | phyPower =>
    cases hbound; cases h
    exact ((accessesWithin_powerSequence _ _ s).portChecks _ _).history

end Sys2Proof.Machine
